-- ==== Sys2Proof/Word.lean ====
section
/-! DEFINITION. The machine's words: the 8-bit and 16-bit unsigned integers of 00_scope.md R10, and the index of a
general register. -/

namespace Sys2Proof

/-- `u8` of 00_scope.md R10. -/
abbrev Byte := BitVec 8

/-- `u16` of 00_scope.md R10: the index register, the program counter, a return address, an instruction word. -/
abbrev Word := BitVec 16

/-- A 12-bit address operand NNN (30_encoding.md R82). -/
abbrev Addr := BitVec 12

/-- A general register's index, 0 to 15 (10_state.md R20). -/
abbrev Reg := Fin 16

/-- VF is `V[15]` (10_state.md R22). -/
abbrev Reg.vf : Reg := 15

end Sys2Proof
end

