-- ==== Sys2Proof/Syntax.lean ====
section
/-! DEFINITION. The instructions: one constructor per row of spec/opcode_table.json (30_encoding.md R85), with the
operand fields of 30_encoding.md R82. -/

namespace Sys2Proof

/-- An instruction. Register fields, NN and NNN are bounded by their types; the sprite height N is a count, whose bound
is `Instr.wellFormed`'s check. -/
inductive Instr where
  /-- 00E0 (44_display.md R200). -/
  | cls
  /-- 00EE (41_control.md R132). -/
  | ret
  /-- 1NNN (41_control.md R130). -/
  | jp (nnn : Addr)
  /-- 2NNN (41_control.md R131). -/
  | call (nnn : Addr)
  /-- 3XNN (41_control.md R134). -/
  | seByte (x : Reg) (nn : Byte)
  /-- 4XNN (41_control.md R135). -/
  | sneByte (x : Reg) (nn : Byte)
  /-- 5XY0 (41_control.md R136). -/
  | seReg (x y : Reg)
  /-- 6XNN (42_alu.md R152). -/
  | ldByte (x : Reg) (nn : Byte)
  /-- 7XNN (42_alu.md R153). -/
  | addByte (x : Reg) (nn : Byte)
  /-- 8XY0 (42_alu.md R154). -/
  | ldReg (x y : Reg)
  /-- 8XY1 (42_alu.md R155). -/
  | orReg (x y : Reg)
  /-- 8XY2 (42_alu.md R156). -/
  | andReg (x y : Reg)
  /-- 8XY3 (42_alu.md R157). -/
  | xorReg (x y : Reg)
  /-- 8XY4 (42_alu.md R158). -/
  | addReg (x y : Reg)
  /-- 8XY5 (42_alu.md R159). -/
  | sub (x y : Reg)
  /-- 8XY6 (42_alu.md R160). -/
  | shr (x y : Reg)
  /-- 8XY7 (42_alu.md R161). -/
  | subn (x y : Reg)
  /-- 8XYE (42_alu.md R162). -/
  | shl (x y : Reg)
  /-- 9XY0 (41_control.md R137). -/
  | sneReg (x y : Reg)
  /-- ANNN (43_index_memory.md R180). -/
  | ldI (nnn : Addr)
  /-- BNNN (41_control.md R133). -/
  | jpV0 (nnn : Addr)
  /-- CXNN (42_alu.md R163). -/
  | rnd (x : Reg) (nn : Byte)
  /-- DXYN (44_display.md R202). -/
  | drw (x y : Reg) (n : Nat)
  /-- EX9E (45_input_timers.md R220). -/
  | skp (x : Reg)
  /-- EXA1 (45_input_timers.md R221). -/
  | sknp (x : Reg)
  /-- FX07 (45_input_timers.md R223). -/
  | ldVxDt (x : Reg)
  /-- FX0A (45_input_timers.md R222). -/
  | ldVxK (x : Reg)
  /-- FX15 (45_input_timers.md R224). -/
  | ldDtVx (x : Reg)
  /-- FX18 (45_input_timers.md R225). -/
  | ldStVx (x : Reg)
  /-- FX1E (43_index_memory.md R181). -/
  | addI (x : Reg)
  /-- FX29 (43_index_memory.md R182). -/
  | ldF (x : Reg)
  /-- FX33 (43_index_memory.md R183). -/
  | ldB (x : Reg)
  /-- FX55 (43_index_memory.md R184). -/
  | ldMemVx (x : Reg)
  /-- FX65 (43_index_memory.md R185). -/
  | ldVxMem (x : Reg)
  deriving DecidableEq, Repr

end Sys2Proof
end

