-- ==== Sys2Proof/Decode.lean ====
section
/-! DEFINITION. The decoder (30_encoding.md R86), total on every word and on any bytes, rejecting by name; after it the
encoder (R101), written from the same table, and the opcode table's rows (R85). -/

namespace Sys2Proof

/-- Why bytes are not an instruction. -/
inductive DecodeError where
  /-- The word matches no row of the opcode table (30_encoding.md R95). -/
  | undecodable (w : Word)
  /-- Fewer than the two bytes of an instruction (30_encoding.md R80). -/
  | truncated
  deriving DecidableEq, Repr

/-! ## Fields (30_encoding.md R82) -/

/-- The opcode class, w[15:12]. -/
def Word.opClass (w : Word) : BitVec 4 := w.extractLsb' 12 4

/-- X, w[11:8], a register index. -/
def Word.fieldX (w : Word) : Reg := (w.extractLsb' 8 4).toFin

/-- Y, w[7:4], a register index. -/
def Word.fieldY (w : Word) : Reg := (w.extractLsb' 4 4).toFin

/-- N, w[3:0]. -/
def Word.fieldN (w : Word) : BitVec 4 := w.extractLsb' 0 4

/-- NN, w[7:0]. -/
def Word.fieldNN (w : Word) : Byte := w.extractLsb' 0 8

/-- NNN, w[11:0]. -/
def Word.fieldNNN (w : Word) : Addr := w.extractLsb' 0 12

/-! ## The decoder (30_encoding.md R86), the classes that are disambiguated each in a definition of its own -/

/-- Class 0: only 00E0 and 00EE (30_encoding.md R96). -/
def decodeClass0 (w : Word) : Except DecodeError Instr :=
  if w = 0x00E0#16 then .ok .cls
  else if w = 0x00EE#16 then .ok .ret
  else .error (.undecodable w)

/-- Class 5: N must be 0. -/
def decodeClass5 (w : Word) : Except DecodeError Instr :=
  if Word.fieldN w = 0x0#4 then .ok (.seReg (Word.fieldX w) (Word.fieldY w)) else .error (.undecodable w)

/-- Class 8: N selects the operation. -/
def decodeClass8 (w : Word) : Except DecodeError Instr :=
  let n := Word.fieldN w
  let x := Word.fieldX w
  let y := Word.fieldY w
  if n = 0x0#4 then .ok (.ldReg x y)
  else if n = 0x1#4 then .ok (.orReg x y)
  else if n = 0x2#4 then .ok (.andReg x y)
  else if n = 0x3#4 then .ok (.xorReg x y)
  else if n = 0x4#4 then .ok (.addReg x y)
  else if n = 0x5#4 then .ok (.sub x y)
  else if n = 0x6#4 then .ok (.shr x y)
  else if n = 0x7#4 then .ok (.subn x y)
  else if n = 0xE#4 then .ok (.shl x y)
  else .error (.undecodable w)

/-- Class 9: N must be 0. -/
def decodeClass9 (w : Word) : Except DecodeError Instr :=
  if Word.fieldN w = 0x0#4 then .ok (.sneReg (Word.fieldX w) (Word.fieldY w)) else .error (.undecodable w)

/-- Class E: NN selects the operation. -/
def decodeClassE (w : Word) : Except DecodeError Instr :=
  let nn := Word.fieldNN w
  let x := Word.fieldX w
  if nn = 0x9E#8 then .ok (.skp x)
  else if nn = 0xA1#8 then .ok (.sknp x)
  else .error (.undecodable w)

/-- Class F: NN selects the operation. -/
def decodeClassF (w : Word) : Except DecodeError Instr :=
  let nn := Word.fieldNN w
  let x := Word.fieldX w
  if nn = 0x07#8 then .ok (.ldVxDt x)
  else if nn = 0x0A#8 then .ok (.ldVxK x)
  else if nn = 0x15#8 then .ok (.ldDtVx x)
  else if nn = 0x18#8 then .ok (.ldStVx x)
  else if nn = 0x1E#8 then .ok (.addI x)
  else if nn = 0x29#8 then .ok (.ldF x)
  else if nn = 0x33#8 then .ok (.ldB x)
  else if nn = 0x55#8 then .ok (.ldMemVx x)
  else if nn = 0x65#8 then .ok (.ldVxMem x)
  else .error (.undecodable w)

/-- Decode one instruction word; total over all 65536 words (30_encoding.md R86). -/
def decode (w : Word) : Except DecodeError Instr :=
  let c := Word.opClass w
  if c = 0x0#4 then decodeClass0 w
  else if c = 0x1#4 then .ok (.jp (Word.fieldNNN w))
  else if c = 0x2#4 then .ok (.call (Word.fieldNNN w))
  else if c = 0x3#4 then .ok (.seByte (Word.fieldX w) (Word.fieldNN w))
  else if c = 0x4#4 then .ok (.sneByte (Word.fieldX w) (Word.fieldNN w))
  else if c = 0x5#4 then decodeClass5 w
  else if c = 0x6#4 then .ok (.ldByte (Word.fieldX w) (Word.fieldNN w))
  else if c = 0x7#4 then .ok (.addByte (Word.fieldX w) (Word.fieldNN w))
  else if c = 0x8#4 then decodeClass8 w
  else if c = 0x9#4 then decodeClass9 w
  else if c = 0xA#4 then .ok (.ldI (Word.fieldNNN w))
  else if c = 0xB#4 then .ok (.jpV0 (Word.fieldNNN w))
  else if c = 0xC#4 then .ok (.rnd (Word.fieldX w) (Word.fieldNN w))
  else if c = 0xD#4 then .ok (.drw (Word.fieldX w) (Word.fieldY w) (Word.fieldN w).toNat)
  else if c = 0xE#4 then decodeClassE w
  else decodeClassF w

/-- The instruction word of two bytes, the first byte the more significant (20_memory.md R59, 30_encoding.md R81). -/
def wordOfBytes (hi lo : Byte) : Word := hi ++ lo

/-- The two bytes of a word, in address order (20_memory.md R59). -/
def bytesOfWord (w : Word) : List Byte := [w.extractLsb' 8 8, w.extractLsb' 0 8]

/-- Decode the first instruction of any bytes: it and the bytes after it (30_encoding.md R80: always two bytes). -/
def decodeBytes : List Byte → Except DecodeError (Instr × List Byte)
  | hi :: lo :: rest =>
    match decode (wordOfBytes hi lo) with
    | .ok i => .ok (i, rest)
    | .error e => .error e
  | _ => .error .truncated

/-! ## The encoder (30_encoding.md R84, R101) -/

/-- A register index as its 4-bit field. -/
def regField (r : Reg) : BitVec 4 := BitVec.ofFin r

/-- Format `nnn`. -/
def formatNNN (c : BitVec 4) (nnn : Addr) : Word := c ++ nnn

/-- Format `xnn`; with a fixed second byte it is format `x`. -/
def formatXNN (c : BitVec 4) (x : Reg) (nn : Byte) : Word := c ++ regField x ++ nn

/-- Format `xyn`; with a fixed low nibble it is format `xy`. -/
def formatXYN (c : BitVec 4) (x y : Reg) (n : BitVec 4) : Word := c ++ regField x ++ regField y ++ n

/-- The word of an instruction (30_encoding.md R101: the pattern of its row in R85, fields at the bits of R82). -/
def encode : Instr → Word
  | .cls => 0x00E0#16
  | .ret => 0x00EE#16
  | .jp nnn => formatNNN 0x1#4 nnn
  | .call nnn => formatNNN 0x2#4 nnn
  | .seByte x nn => formatXNN 0x3#4 x nn
  | .sneByte x nn => formatXNN 0x4#4 x nn
  | .seReg x y => formatXYN 0x5#4 x y 0x0#4
  | .ldByte x nn => formatXNN 0x6#4 x nn
  | .addByte x nn => formatXNN 0x7#4 x nn
  | .ldReg x y => formatXYN 0x8#4 x y 0x0#4
  | .orReg x y => formatXYN 0x8#4 x y 0x1#4
  | .andReg x y => formatXYN 0x8#4 x y 0x2#4
  | .xorReg x y => formatXYN 0x8#4 x y 0x3#4
  | .addReg x y => formatXYN 0x8#4 x y 0x4#4
  | .sub x y => formatXYN 0x8#4 x y 0x5#4
  | .shr x y => formatXYN 0x8#4 x y 0x6#4
  | .subn x y => formatXYN 0x8#4 x y 0x7#4
  | .shl x y => formatXYN 0x8#4 x y 0xE#4
  | .sneReg x y => formatXYN 0x9#4 x y 0x0#4
  | .ldI nnn => formatNNN 0xA#4 nnn
  | .jpV0 nnn => formatNNN 0xB#4 nnn
  | .rnd x nn => formatXNN 0xC#4 x nn
  | .drw x y n => formatXYN 0xD#4 x y (BitVec.ofNat 4 n)
  | .skp x => formatXNN 0xE#4 x 0x9E#8
  | .sknp x => formatXNN 0xE#4 x 0xA1#8
  | .ldVxDt x => formatXNN 0xF#4 x 0x07#8
  | .ldVxK x => formatXNN 0xF#4 x 0x0A#8
  | .ldDtVx x => formatXNN 0xF#4 x 0x15#8
  | .ldStVx x => formatXNN 0xF#4 x 0x18#8
  | .addI x => formatXNN 0xF#4 x 0x1E#8
  | .ldF x => formatXNN 0xF#4 x 0x29#8
  | .ldB x => formatXNN 0xF#4 x 0x33#8
  | .ldMemVx x => formatXNN 0xF#4 x 0x55#8
  | .ldVxMem x => formatXNN 0xF#4 x 0x65#8

/-- The encoded bytes, in address order. -/
def encodeBytes (i : Instr) : List Byte := bytesOfWord (encode i)

/-! ## The opcode table (30_encoding.md R85, spec/opcode_table.json) -/

/-- A row's fixed bits: a word is of the row when `w &&& mask = value`. -/
structure OpcodeRow where
  mnemonic : String
  mask : Word
  value : Word
  deriving DecidableEq, Repr

/-- The row of an instruction, `match` and `mask` as spec/opcode_table.json has them. -/
def Instr.row : Instr → OpcodeRow
  | .cls => ⟨"CLS", 0xFFFF#16, 0x00E0#16⟩
  | .ret => ⟨"RET", 0xFFFF#16, 0x00EE#16⟩
  | .jp _ => ⟨"JP", 0xF000#16, 0x1000#16⟩
  | .call _ => ⟨"CALL", 0xF000#16, 0x2000#16⟩
  | .seByte _ _ => ⟨"SE_BYTE", 0xF000#16, 0x3000#16⟩
  | .sneByte _ _ => ⟨"SNE_BYTE", 0xF000#16, 0x4000#16⟩
  | .seReg _ _ => ⟨"SE_REG", 0xF00F#16, 0x5000#16⟩
  | .ldByte _ _ => ⟨"LD_BYTE", 0xF000#16, 0x6000#16⟩
  | .addByte _ _ => ⟨"ADD_BYTE", 0xF000#16, 0x7000#16⟩
  | .ldReg _ _ => ⟨"LD_REG", 0xF00F#16, 0x8000#16⟩
  | .orReg _ _ => ⟨"OR", 0xF00F#16, 0x8001#16⟩
  | .andReg _ _ => ⟨"AND", 0xF00F#16, 0x8002#16⟩
  | .xorReg _ _ => ⟨"XOR", 0xF00F#16, 0x8003#16⟩
  | .addReg _ _ => ⟨"ADD_REG", 0xF00F#16, 0x8004#16⟩
  | .sub _ _ => ⟨"SUB", 0xF00F#16, 0x8005#16⟩
  | .shr _ _ => ⟨"SHR", 0xF00F#16, 0x8006#16⟩
  | .subn _ _ => ⟨"SUBN", 0xF00F#16, 0x8007#16⟩
  | .shl _ _ => ⟨"SHL", 0xF00F#16, 0x800E#16⟩
  | .sneReg _ _ => ⟨"SNE_REG", 0xF00F#16, 0x9000#16⟩
  | .ldI _ => ⟨"LD_I", 0xF000#16, 0xA000#16⟩
  | .jpV0 _ => ⟨"JP_V0", 0xF000#16, 0xB000#16⟩
  | .rnd _ _ => ⟨"RND", 0xF000#16, 0xC000#16⟩
  | .drw _ _ _ => ⟨"DRW", 0xF000#16, 0xD000#16⟩
  | .skp _ => ⟨"SKP", 0xF0FF#16, 0xE09E#16⟩
  | .sknp _ => ⟨"SKNP", 0xF0FF#16, 0xE0A1#16⟩
  | .ldVxDt _ => ⟨"LD_VX_DT", 0xF0FF#16, 0xF007#16⟩
  | .ldVxK _ => ⟨"LD_VX_K", 0xF0FF#16, 0xF00A#16⟩
  | .ldDtVx _ => ⟨"LD_DT_VX", 0xF0FF#16, 0xF015#16⟩
  | .ldStVx _ => ⟨"LD_ST_VX", 0xF0FF#16, 0xF018#16⟩
  | .addI _ => ⟨"ADD_I", 0xF0FF#16, 0xF01E#16⟩
  | .ldF _ => ⟨"LD_F", 0xF0FF#16, 0xF029#16⟩
  | .ldB _ => ⟨"LD_B", 0xF0FF#16, 0xF033#16⟩
  | .ldMemVx _ => ⟨"LD_MEM_VX", 0xF0FF#16, 0xF055#16⟩
  | .ldVxMem _ => ⟨"LD_VX_MEM", 0xF0FF#16, 0xF065#16⟩

/-- One instruction of every row, in the table's order. -/
def oneOfEachRow : List Instr :=
  [.cls, .ret, .jp 0, .call 0, .seByte 0 0, .sneByte 0 0, .seReg 0 0, .ldByte 0 0, .addByte 0 0] ++
  [.ldReg 0 0, .orReg 0 0, .andReg 0 0, .xorReg 0 0, .addReg 0 0, .sub 0 0, .shr 0 0, .subn 0 0, .shl 0 0] ++
  [.sneReg 0 0, .ldI 0, .jpV0 0, .rnd 0 0, .drw 0 0 0, .skp 0, .sknp 0] ++
  [.ldVxDt 0, .ldVxK 0, .ldDtVx 0, .ldStVx 0, .addI 0, .ldF 0, .ldB 0, .ldMemVx 0, .ldVxMem 0]

/-- The opcode table, 34 rows (30_encoding.md R85). -/
def opcodeTable : List OpcodeRow := oneOfEachRow.map Instr.row

/-! ## The host's reading of a table word -/

/-- The word of an instruction of `nbits` table bits `w`. The table numbers a row's bits as one 16-bit word, bit 0 the
least significant, so the first byte in memory is bits 15..8 (30_encoding.md R81). -/
def tableWord (nbits w : Nat) : Word := BitVec.ofNat 16 (w % 2 ^ nbits)

/-- What the decoder reads from the table word `w`, laid out as two bytes in memory. -/
def decodeTableWord (nbits w : Nat) : Option Instr :=
  match decodeBytes (bytesOfWord (tableWord nbits w)) with
  | .ok (i, _) => some i
  | .error _ => none

end Sys2Proof
end

