-- ==== Sys2Proof/Config.lean ====
section
/-! DEFINITION. What is fixed for the machine: the parameters of 00_scope.md R9, the font table of 20_memory.md R53, and
the free values, which have no body. -/

namespace Sys2Proof.Config

/-- MEM_SIZE (00_scope.md R9, 20_memory.md R50). -/
def memSize : Nat := 4096

/-- PROGRAM_ORIGIN (00_scope.md R9; DESIGN CHOICE, log entry 1: the spec's default is fixed here). -/
def programOrigin : Nat := 0x200

/-- FONT_BASE (00_scope.md R9; DESIGN CHOICE, log entry 1: the spec's default is fixed here). -/
def fontBase : Nat := 0x050

/-- GLYPH_SIZE (00_scope.md R9). -/
def glyphSize : Nat := 5

/-- FRAME_RATE, in Hz (00_scope.md R9). -/
def frameRate : Nat := 60

/-- The clock speed of the test vectors of 95_test_vectors.md, which `State.reset` is constructed with
(DESIGN CHOICE, log entry 2: the spec makes it a construction argument). -/
def defaultClockSpeed : Nat := 400

/-- The glyphs of the digits 0 to 7, rows in address order (20_memory.md R53). -/
def fontLow : List Byte :=
  [0xF0, 0x90, 0x90, 0x90, 0xF0] ++ [0x20, 0x60, 0x20, 0x20, 0x70] ++
  [0xF0, 0x10, 0xF0, 0x80, 0xF0] ++ [0xF0, 0x10, 0xF0, 0x10, 0xF0] ++
  [0x90, 0x90, 0xF0, 0x10, 0x10] ++ [0xF0, 0x80, 0xF0, 0x10, 0xF0] ++
  [0xF0, 0x80, 0xF0, 0x90, 0xF0] ++ [0xF0, 0x10, 0x20, 0x40, 0x40]

/-- The glyphs of the digits 8 to F, rows in address order (20_memory.md R53). -/
def fontHigh : List Byte :=
  [0xF0, 0x90, 0xF0, 0x90, 0xF0] ++ [0xF0, 0x90, 0xF0, 0x10, 0xF0] ++
  [0xF0, 0x90, 0xF0, 0x90, 0x90] ++ [0xE0, 0x90, 0xE0, 0x90, 0xE0] ++
  [0xF0, 0x80, 0x80, 0x80, 0xF0] ++ [0xE0, 0x90, 0x90, 0x90, 0xE0] ++
  [0xF0, 0x80, 0xF0, 0x80, 0xF0] ++ [0xF0, 0x80, 0xF0, 0x80, 0x80]

/-- The 80 font bytes (20_memory.md R53). -/
def font : List Byte := fontLow ++ fontHigh

/-- INDEX_WRAP (00_scope.md R9): what ADD I, Vx does with a sum above 0xFFFF (43_index_memory.md R181). -/
inductive IndexWrap where
  | wrap16
  | fault
  deriving DecidableEq, Repr

/-- The three parameters of 00_scope.md R9 that change what an instruction does. They are chosen at construction and
never change; State carries them, so that a statement about every state covers every setting (log entry 1). -/
structure Options where
  /-- STACK_LIMIT: `none` is the unbounded default (10_state.md R31). -/
  stackLimit : Option Nat
  /-- INDEX_WRAP. -/
  indexWrap : IndexWrap
  /-- LOAD_STORE_INCREMENTS_I (43_index_memory.md R184, R185). -/
  loadStoreIncrementsI : Bool
  deriving DecidableEq, Repr

/-- The defaults of 00_scope.md R9. -/
def Options.default : Options :=
  { stackLimit := none, indexWrap := .wrap16, loadStoreIncrementsI := false }

/-- FREE VALUE (log entry 9): the n-th 8-bit draw of RND, chosen by an oracle outside the block, under no law
(00_scope.md R15, 42_alu.md R163). -/
opaque draw : Nat → Byte

/-- FREE VALUE (log entry 8): whether PC had been advanced when the fatal mode was entered; the spec leaves PC there
unspecified between a and a + 2 (60_exceptions.md R247, 93_implementation_defined.md U2). -/
opaque fatalPcAdvanced : Nat → Bool

end Sys2Proof.Config
end

