-- ==== Sys2Proof/Machine/State.lean ====
section
/-! DEFINITION. The machine's state as plain data, the reasons a step can stop, and the state after reset
(10_state.md, 60_exceptions.md R241, 70_reset_and_hazards.md R272). -/

namespace Sys2Proof.Machine

/-- The fatal errors (60_exceptions.md R241), each with the info it records. -/
inductive FatalError where
  /-- Code 1: the word matches no opcode pattern; the word and the address it was fetched from. -/
  | undecodableInstruction (w a : Word)
  /-- Code 2: an access past the end of memory; the highest address of the attempted access. -/
  | outOfBoundsMemoryAccess (addr : Nat)
  /-- Code 3: RET with an empty stack; the address of the RET. -/
  | stackUnderflow (a : Word)
  /-- Code 4, only with a finite STACK_LIMIT (R244): the return address that could not be pushed. -/
  | stackOverflow (ret : Word)
  deriving DecidableEq, Repr

/-- The engine's mode (10_state.md R44, R45). -/
inductive Mode where
  | normal
  | fatal (e : FatalError)
  deriving DecidableEq, Repr

/-- A command to the tone generator (60_exceptions.md R253). -/
inductive ToneCommand where
  | start
  | stop
  deriving DecidableEq, Repr

/-- Why a step stops. -/
inductive Fault where
  /-- Raised by `tick`, `step` and the host's calls in mode fatal: the engine has no step there (40_cycle.md R116,
  60_exceptions.md R246). Safe: the spec gives the fatal state no successor. -/
  | engineStopped (e : FatalError)
  deriving DecidableEq, Repr

/-- Why the model gives no outcome. -/
inductive Refusal where
  /-- Reserved for an arm of `exec` without a meaning; no arm uses it. Safe. -/
  | notModelled (mnemonic : String)
  /-- Raised by `hostCall` only, never by `step`: the host calls these operations between frames (40_cycle.md R120,
  R123; 93_implementation_defined.md U8 refuses them). Safe. -/
  | hostCallDuringFrame
  deriving DecidableEq, Repr

/-- The display: 32 rows of 64 cells, true is on; cell (x, y) is `d[y][x]` (10_state.md R35). -/
abbrev Display := Vector (Vector Bool 64) 32

/-- The pressed-key set, a subset of {0..15} by type (10_state.md R37, R38). -/
abbrev KeySet := Vector Bool 16

/-- Memory: the bytes that differ from the reset contents, addresses rising (20_memory.md R50; log entry 15). -/
abbrev Memory := List Host.Cell

/-- The state of the block (10_state.md), then the construction's parameters, then the model's own fields. -/
structure State where
  /-- V0..VF (10_state.md R20); VF is `v[15]` (R22). -/
  v : Vector Byte 16
  /-- I (10_state.md R24). -/
  i : Word
  /-- PC (10_state.md R26). -/
  pc : Word
  /-- The call stack, its top first (10_state.md R29; log entry 13). -/
  stack : List Word
  /-- DT (10_state.md R32). -/
  dt : Byte
  /-- ST (10_state.md R33). -/
  st : Byte
  /-- The display buffer (10_state.md R35). -/
  disp : Display
  /-- The pressed-key set (10_state.md R37). -/
  keys : KeySet
  /-- The redraw flag (10_state.md R39, R40). -/
  redraw : Bool
  /-- tick_count (10_state.md R41). -/
  tickCount : Nat
  /-- tone_on (10_state.md R43). -/
  toneOn : Bool
  /-- The mode (10_state.md R45). -/
  mode : Mode
  /-- The 4096 bytes (20_memory.md R50). -/
  mem : Memory
  /-- The tone commands emitted so far, oldest first (60_exceptions.md R253; log entry 6). -/
  toneCommands : List ToneCommand
  /-- TICKS_PER_FRAME, fixed at construction (40_cycle.md R117). -/
  ticksPerFrame : Nat
  /-- TIMER_INTERVAL, fixed at construction (40_cycle.md R117, R121). -/
  timerInterval : Nat
  /-- STACK_LIMIT, INDEX_WRAP and LOAD_STORE_INCREMENTS_I, fixed at construction (00_scope.md R9; log entry 1). -/
  options : Config.Options
  /-- The model's own: what the last tick returned, true if it requested a redraw (40_cycle.md R113; log entry 5). -/
  redrawRequest : Bool
  /-- The model's own: the ticks the current frame still has to run, 0 between frames (40_cycle.md R118; log entry 4). -/
  frameLeft : Nat
  /-- The model's own: how many free values have been drawn (00_scope.md R15; log entry 9). -/
  draws : Nat
  deriving DecidableEq, Repr

/-- Construction with clock speed 400, the default options and the empty program (70_reset_and_hazards.md R270, R272;
log entries 1 to 6, 9 and 16). Memory lists nothing: it is the font and zeros. -/
def State.reset : State where
  v := Vector.replicate 16 0
  i := 0
  pc := 0x200#16
  stack := []
  dt := 0
  st := 0
  disp := Vector.replicate 32 (Vector.replicate 64 false)
  keys := Vector.replicate 16 false
  redraw := false
  tickCount := 0
  toneOn := false
  mode := .normal
  mem := []
  toneCommands := []
  ticksPerFrame := 7
  timerInterval := 7
  options := Config.Options.default
  redrawRequest := false
  frameLeft := 0
  draws := 0

end Sys2Proof.Machine
end

