-- ==== Sys2Proof/Machine/Ops.lean ====
section
/-! DEFINITION. The named operations over registers, memory, stack, display, keys and tone, and the entry into the fatal
mode. Every meaning is written over these. -/

namespace Sys2Proof.Machine

/-- The outcome of an instruction, a tick or a step. -/
abbrev Result := Host.Outcome State Fault Refusal

/-! ## Memory (20_memory.md) -/

/-- What an address that the memory list does not hold reads as: the contents after construction with no program, the
font at FONT_BASE and zero elsewhere (20_memory.md R52, R53; log entry 15). -/
def Memory.resetByte (a : Nat) : Byte :=
  if Config.fontBase ≤ a ∧ a < Config.fontBase + 80 then Config.font.getD (a - Config.fontBase) 0 else 0

/-- One byte of memory. -/
def Memory.read : Memory → Nat → Byte
  | [], a => Memory.resetByte a
  | (b, u) :: m, a => if a = b then u else Memory.read m a

/-- Put a cell in front of a memory, or leave it out where it holds what an unlisted address reads as. -/
def Memory.consCell (a : Nat) (u : Byte) (m : Memory) : Memory :=
  if u = Memory.resetByte a then m else (a, u) :: m

/-- Store one byte of memory, keeping the canonical form. -/
def Memory.write : Memory → Nat → Byte → Memory
  | [], a, u => Memory.consCell a u []
  | (b, w) :: m, a, u =>
    if a < b then Memory.consCell a u ((b, w) :: m)
    else if a = b then Memory.consCell a u m
    else (b, w) :: Memory.write m a u

/-- The canonical form from address `lo` on: addresses rising, inside memory, no entry equal to what an unlisted address
reads as. -/
def Memory.wfFrom (lo : Nat) : Memory → Bool
  | [] => true
  | (a, u) :: m =>
    decide (lo ≤ a) && decide (a < Config.memSize) && decide (u ≠ Memory.resetByte a) && Memory.wfFrom (a + 1) m

/-- The canonical form of memory: equal memories are equal lists. -/
def Memory.wf (m : Memory) : Bool := Memory.wfFrom 0 m

/-- The `n` bytes from address `a` on, first byte at `a` (20_memory.md R65). -/
def Memory.readBytes (m : Memory) (a : Nat) : Nat → List Byte
  | 0 => []
  | n + 1 => Memory.read m a :: Memory.readBytes m (a + 1) n

/-- Store the bytes from address `a` on, in increasing address order (20_memory.md R65). -/
def Memory.writeBytes (m : Memory) (a : Nat) : List Byte → Memory
  | [] => m
  | u :: us => Memory.writeBytes (Memory.write m a u) (a + 1) us

/-- The bounds check of an access to the `n` bytes from `a` on: the error, or none (00_scope.md R13, 20_memory.md R56,
R57). An access of no bytes has no last byte and is never out of bounds (44_display.md R202; log entry 10). -/
def boundsError (a n : Nat) : Option FatalError :=
  if 0 < n ∧ Config.memSize < a + n then some (.outOfBoundsMemoryAccess (a + n - 1)) else none

/-- MemRead of 00_scope.md R13. -/
def State.memRead (s : State) (a n : Nat) : Except FatalError (List Byte) :=
  match boundsError a n with
  | some e => .error e
  | none => .ok (s.mem.readBytes a n)

/-- MemWrite of 00_scope.md R13: the check comes before any byte is written. -/
def State.memWrite (s : State) (a : Nat) (bytes : List Byte) : Except FatalError State :=
  match boundsError a bytes.length with
  | some e => .error e
  | none => .ok { s with mem := s.mem.writeBytes a bytes }

/-! ## Registers (10_state.md R20, R22) -/

/-- `V[r]`. -/
def State.getV (s : State) (r : Reg) : Byte := s.v[r]

/-- `V[r] <- u`. -/
def State.setV (s : State) (r : Reg) (u : Byte) : State := { s with v := s.v.set r u r.isLt }

/-- `VF <- flag`, as 1 or 0. -/
def State.setFlag (s : State) (f : Bool) : State := s.setV Reg.vf (if f then 1 else 0)

/-- The result and the flag of an arithmetic instruction: `V[X]` first, VF second (42_alu.md R151). -/
def State.setResultFlag (s : State) (x : Reg) (u : Byte) (f : Bool) : State := (s.setV x u).setFlag f

/-- `V[k] .. <- bytes`, in increasing order; bytes past VF are dropped (no instruction gives any). -/
def State.loadV (s : State) (k : Nat) : List Byte → State
  | [] => s
  | u :: us => if h : k < 16 then State.loadV (s.setV ⟨k, h⟩ u) (k + 1) us else s

/-- V0 .. V[X] in order (43_index_memory.md R184). -/
def State.dumpV (s : State) (x : Reg) : List Byte := s.v.toList.take (x.val + 1)

/-! ## Entering the fatal mode (60_exceptions.md R246, R247) -/

/-- The address the executing instruction was fetched from: PC already holds a + 2 (10_state.md R27; log entry 11). -/
def State.instrAddr (s : State) : Word := s.pc - 2

/-- TAKING A FATAL ERROR, the machine's only exception: `mode <- fatal(e)` and nothing else but PC, which is `a` or
`a + 2` for the failing instruction's address `a`, the spec does not say which (60_exceptions.md R246, R247; log entries
7 and 8). There is no handler, no saved register and no return (R248). -/
def State.raise (s : State) (e : FatalError) (a : Word) : State :=
  { s with mode := .fatal e, pc := if Config.fatalPcAdvanced s.draws then a + 2 else a }

/-- Go on with the value of a checked access, or take its error in the execute phase. -/
def State.attempt {α : Type} (s : State) (r : Except FatalError α) (k : α → State) : Result :=
  match r with
  | .ok u => .next (k u)
  | .error e => .next (s.raise e s.instrAddr)

/-! ## Control (41_control.md) -/

/-- The skip of 41_control.md R140: 2 more on the already advanced PC. -/
def State.skipIf (s : State) (c : Bool) : State := if c then { s with pc := s.pc + 2 } else s

/-- Whether a push finds the stack full: only with a finite STACK_LIMIT (10_state.md R31). -/
def State.stackFull (s : State) : Bool :=
  match s.options.stackLimit with
  | none => false
  | some limit => decide (s.stack.length = limit)

/-! ## Display (44_display.md) -/

/-- The clear display (44_display.md R200). -/
def Display.clear : Display := Vector.replicate 32 (Vector.replicate 64 false)

/-- Cell (x, y), false outside the grid. -/
def Display.cell (d : Display) (x y : Nat) : Bool :=
  if h : x < 64 ∧ y < 32 then d[y][x] else false

/-- Toggle cell (x, y); nothing outside the grid. -/
def Display.toggle (d : Display) (x y : Nat) : Display :=
  if h : x < 64 ∧ y < 32 then d.set y (d[y].set x (!d[y][x])) else d

/-- A display and the collision flag `c` of 44_display.md R202. -/
structure Canvas where
  disp : Display
  collision : Bool
  deriving DecidableEq, Repr

/-- One sprite bit of 44_display.md R202: column offset `b`, bit 7 - b of the row byte (R201), at row `y`. -/
def Canvas.drawBit (x0 y : Nat) (row : Byte) (c : Canvas) (b : Nat) : Canvas :=
  if 64 ≤ x0 + b then c
  else if row.getLsbD (7 - b) then
    { disp := c.disp.toggle (x0 + b) y, collision := c.collision || c.disp.cell (x0 + b) y }
  else c

/-- One sprite row of 44_display.md R202, clipped at the bottom edge. -/
def Canvas.drawRow (x0 y : Nat) (row : Byte) (c : Canvas) : Canvas :=
  if 32 ≤ y then c else (List.range 8).foldl (Canvas.drawBit x0 y row) c

/-- The sprite's rows from row `y` on, top row first. -/
def Canvas.drawRows (x0 y : Nat) : List Byte → Canvas → Canvas
  | [], c => c
  | row :: rows, c => Canvas.drawRows x0 (y + 1) rows (Canvas.drawRow x0 y row c)

/-! ## Keys (45_input_timers.md) -/

/-- `V[X] in keys`, the register's value taken whole (45_input_timers.md R220). -/
def KeySet.has (keys : KeySet) (k : Byte) : Bool :=
  if h : k.toNat < 16 then keys[k.toNat] else false

/-- The sixteen key identifiers. -/
def KeySet.domain : List (Fin 16) := [0, 1, 2, 3, 4, 5, 6, 7, 8, 9, 10, 11, 12, 13, 14, 15]

/-- The pressed keys, in rising order. -/
def KeySet.pressed (keys : KeySet) : List (Fin 16) := KeySet.domain.filter (fun k => keys[k])

/-! ## Sound timer and tone (60_exceptions.md R253) -/

/-- The command emitted when ST goes from `old` to `new` (60_exceptions.md R253, 45_input_timers.md R225). -/
def toneTransition (old new : Byte) : List ToneCommand :=
  if old = 0 ∧ new ≠ 0 then [.start]
  else if old ≠ 0 ∧ new = 0 then [.stop]
  else []

/-- `ST <- u` with the tone command of the transition and `tone_on <- (ST != 0)` (45_input_timers.md R225). -/
def State.setST (s : State) (u : Byte) : State :=
  { s with st := u, toneOn := decide (u ≠ 0), toneCommands := s.toneCommands ++ toneTransition s.st u }

/-- A timer counts down and saturates at zero (10_state.md R34). -/
def countDown (t : Byte) : Byte := if t = 0 then 0 else t - 1

/-- timer_update of 60_exceptions.md R250. -/
def State.timerUpdate (s : State) : State := { s.setST (countDown s.st) with dt := countDown s.dt }

end Sys2Proof.Machine
end

