-- ==== Sys2Proof/Machine/Operands.lean ====
section
/-! DEFINITION. The operand forms: what an instruction reads its operands as (00_scope.md R10 to R12, 30_encoding.md R83). -/

namespace Sys2Proof.Machine

/-- `zext_16(NNN)`, an address operand as PC or I takes it (30_encoding.md R83). -/
def addrOperand (nnn : Addr) : Word := nnn.setWidth 16

/-- `zext_16(V[r])`. -/
def State.zextV (s : State) (r : Reg) : Word := (s.getV r).setWidth 16

/-- I as an address: a natural number, never wrapped (20_memory.md R57). -/
def State.indexAddr (s : State) : Nat := s.i.toNat

/-- The target of JP V0, addr: NNN + V0, not reduced to 12 bits (41_control.md R133). -/
def State.jumpOffset (s : State) (nnn : Addr) : Word := addrOperand nnn + s.zextV 0

/-- The address LD F, Vx puts in I: FONT_BASE + GLYPH_SIZE * V[X], V[X] whole (43_index_memory.md R182). -/
def State.glyphAddr (s : State) (x : Reg) : Word :=
  BitVec.ofNat 16 (Config.fontBase + Config.glyphSize * (s.getV x).toNat)

/-- The three decimal digits of a byte, hundreds first (43_index_memory.md R183). -/
def bcdDigits (u : Byte) : List Byte :=
  [BitVec.ofNat 8 (u.toNat / 100), BitVec.ofNat 8 (u.toNat / 10 % 10), BitVec.ofNat 8 (u.toNat % 10)]

/-- DRW's start column, V[X] mod 64 (44_display.md R202). -/
def State.spriteX (s : State) (x : Reg) : Nat := (s.getV x).toNat % 64

/-- DRW's start row, V[Y] mod 32 (44_display.md R202). -/
def State.spriteY (s : State) (y : Reg) : Nat := (s.getV y).toNat % 32

/-- I after LD [I], Vx and LD Vx, [I]: unchanged, or I + X + 1 with LOAD_STORE_INCREMENTS_I (43_index_memory.md R184,
R185). -/
def State.advanceI (s : State) (x : Reg) : State :=
  if s.options.loadStoreIncrementsI then { s with i := s.i + BitVec.ofNat 16 (x.val + 1) } else s

end Sys2Proof.Machine
end

