-- ==== Sys2Proof/Machine/Flags.lean ====
section
/-! DEFINITION. The flags VF receives (10_state.md R22, 42_alu.md R151), from the values before the operation. DRW's
collision flag is `Canvas.collision`. -/

namespace Sys2Proof.Machine

/-- Carry of an 8-bit sum (42_alu.md R158). -/
def carry (a b : Byte) : Bool := decide (255 < a.toNat + b.toNat)

/-- The subtract flag: 1 if and only if minuend > subtrahend, strict (42_alu.md R159, R161; 90_conflicts.md C1). -/
def minuendGreater (minuend subtrahend : Byte) : Bool := decide (subtrahend.toNat < minuend.toNat)

/-- The bit a right shift by one shifts out, bit 0 (42_alu.md R160). -/
def shiftedOutRight (a : Byte) : Bool := a.getLsbD 0

/-- The bit a left shift by one shifts out, bit 7 (42_alu.md R162). -/
def shiftedOutLeft (a : Byte) : Bool := a.getLsbD 7

end Sys2Proof.Machine
end

