-- ==== Sys2Proof/Machine/Alu.lean ====
section
/-! DEFINITION. Register loads, arithmetic, logic, shifts and RND (42_alu.md). Flags come from the values before the
operation and are written after `V[X]` (R151). -/

namespace Sys2Proof.Machine

/-- LD Vx, byte (42_alu.md R152). -/
def execLdByte (x : Reg) (nn : Byte) (s : State) : Result := .next (s.setV x nn)

/-- ADD Vx, byte (42_alu.md R153): VF is not written. -/
def execAddByte (x : Reg) (nn : Byte) (s : State) : Result := .next (s.setV x (s.getV x + nn))

/-- LD Vx, Vy (42_alu.md R154). -/
def execLdReg (x y : Reg) (s : State) : Result := .next (s.setV x (s.getV y))

/-- OR Vx, Vy (42_alu.md R155). -/
def execOr (x y : Reg) (s : State) : Result := .next (s.setV x (s.getV x ||| s.getV y))

/-- AND Vx, Vy (42_alu.md R156). -/
def execAnd (x y : Reg) (s : State) : Result := .next (s.setV x (s.getV x &&& s.getV y))

/-- XOR Vx, Vy (42_alu.md R157). -/
def execXor (x y : Reg) (s : State) : Result := .next (s.setV x (s.getV x ^^^ s.getV y))

/-- ADD Vx, Vy (42_alu.md R158). -/
def execAddReg (x y : Reg) (s : State) : Result :=
  .next (s.setResultFlag x (s.getV x + s.getV y) (carry (s.getV x) (s.getV y)))

/-- SUB Vx, Vy (42_alu.md R159). -/
def execSub (x y : Reg) (s : State) : Result :=
  .next (s.setResultFlag x (s.getV x - s.getV y) (minuendGreater (s.getV x) (s.getV y)))

/-- SHR Vx, Vy (42_alu.md R160): shifts `V[Y]` into `V[X]`. -/
def execShr (x y : Reg) (s : State) : Result :=
  .next (s.setResultFlag x (s.getV y >>> 1) (shiftedOutRight (s.getV y)))

/-- SUBN Vx, Vy (42_alu.md R161). -/
def execSubn (x y : Reg) (s : State) : Result :=
  .next (s.setResultFlag x (s.getV y - s.getV x) (minuendGreater (s.getV y) (s.getV x)))

/-- SHL Vx, Vy (42_alu.md R162): shifts `V[Y]` into `V[X]`. -/
def execShl (x y : Reg) (s : State) : Result :=
  .next (s.setResultFlag x (s.getV y <<< 1) (shiftedOutLeft (s.getV y)))

/-- RND Vx, byte (42_alu.md R163): the draw is a free value, a fresh one each time (00_scope.md R15; log entry 9). -/
def execRnd (x : Reg) (nn : Byte) (s : State) : Result :=
  .next { s.setV x (Config.draw s.draws &&& nn) with draws := s.draws + 1 }

end Sys2Proof.Machine
end

