-- ==== Sys2Proof/Machine/Control.lean ====
section
/-! DEFINITION. Jumps, calls, returns and register skips (41_control.md). On entry PC holds a + 2, a the address of the
instruction (R139). -/

namespace Sys2Proof.Machine

/-- JP addr (41_control.md R130). -/
def execJp (nnn : Addr) (s : State) : Result := .next { s with pc := addrOperand nnn }

/-- CALL addr (41_control.md R131): the pushed PC is the address of the next instruction. -/
def execCall (nnn : Addr) (s : State) : Result :=
  if s.stackFull then .next (s.raise (.stackOverflow s.pc) s.instrAddr)
  else .next { s with stack := s.pc :: s.stack, pc := addrOperand nnn }

/-- RET (41_control.md R132). -/
def execRet (s : State) : Result :=
  match s.stack with
  | [] => .next (s.raise (.stackUnderflow s.instrAddr) s.instrAddr)
  | a :: rest => .next { s with stack := rest, pc := a }

/-- JP V0, addr (41_control.md R133). -/
def execJpV0 (nnn : Addr) (s : State) : Result := .next { s with pc := s.jumpOffset nnn }

/-- SE Vx, byte (41_control.md R134). -/
def execSeByte (x : Reg) (nn : Byte) (s : State) : Result := .next (s.skipIf (s.getV x == nn))

/-- SNE Vx, byte (41_control.md R135). -/
def execSneByte (x : Reg) (nn : Byte) (s : State) : Result := .next (s.skipIf (s.getV x != nn))

/-- SE Vx, Vy (41_control.md R136). -/
def execSeReg (x y : Reg) (s : State) : Result := .next (s.skipIf (s.getV x == s.getV y))

/-- SNE Vx, Vy (41_control.md R137). -/
def execSneReg (x y : Reg) (s : State) : Result := .next (s.skipIf (s.getV x != s.getV y))

end Sys2Proof.Machine
end

