-- ==== Sys2Proof/Machine/Index.lean ====
section
/-! DEFINITION. The instructions that write I or reach memory through I, but for DRW (43_index_memory.md). -/

namespace Sys2Proof.Machine

/-- LD I, addr (43_index_memory.md R180). -/
def execLdI (nnn : Addr) (s : State) : Result := .next { s with i := addrOperand nnn }

/-- ADD I, Vx (43_index_memory.md R181): wraps mod 2^16, or with INDEX_WRAP = fault raises the error and leaves I. -/
def execAddI (x : Reg) (s : State) : Result :=
  match s.options.indexWrap with
  | .wrap16 => .next { s with i := s.i + s.zextV x }
  | .fault =>
    if 0xFFFF < s.indexAddr + (s.getV x).toNat then
      .next (s.raise (.outOfBoundsMemoryAccess (s.indexAddr + (s.getV x).toNat)) s.instrAddr)
    else .next { s with i := s.i + s.zextV x }

/-- LD F, Vx (43_index_memory.md R182): reads no memory. -/
def execLdF (x : Reg) (s : State) : Result := .next { s with i := s.glyphAddr x }

/-- LD B, Vx (43_index_memory.md R183). -/
def execLdB (x : Reg) (s : State) : Result :=
  s.attempt (s.memWrite s.indexAddr (bcdDigits (s.getV x))) (fun t => t)

/-- LD [I], Vx (43_index_memory.md R184). -/
def execLdMemVx (x : Reg) (s : State) : Result :=
  s.attempt (s.memWrite s.indexAddr (s.dumpV x)) (fun t => t.advanceI x)

/-- LD Vx, [I] (43_index_memory.md R185). -/
def execLdVxMem (x : Reg) (s : State) : Result :=
  s.attempt (s.memRead s.indexAddr (x.val + 1)) (fun bytes => (s.loadV 0 bytes).advanceI x)

end Sys2Proof.Machine
end

