-- ==== Sys2Proof/Machine/Input.lean ====
section
/-! DEFINITION. Key input and timer instructions (45_input_timers.md). -/

namespace Sys2Proof.Machine

/-- SKP Vx (45_input_timers.md R220). -/
def execSkp (x : Reg) (s : State) : Result := .next (s.skipIf (s.keys.has (s.getV x)))

/-- SKNP Vx (45_input_timers.md R221). -/
def execSknp (x : Reg) (s : State) : Result := .next (s.skipIf (!s.keys.has (s.getV x)))

/-- LD Vx, K (45_input_timers.md R222): exactly one key, or back to the instruction. -/
def execLdVxK (x : Reg) (s : State) : Result :=
  match s.keys.pressed with
  | [k] => .next (s.setV x (BitVec.ofNat 8 k.val))
  | _ => .next { s with pc := s.pc - 2 }

/-- LD Vx, DT (45_input_timers.md R223). -/
def execLdVxDt (x : Reg) (s : State) : Result := .next (s.setV x s.dt)

/-- LD DT, Vx (45_input_timers.md R224). -/
def execLdDtVx (x : Reg) (s : State) : Result := .next { s with dt := s.getV x }

/-- LD ST, Vx (45_input_timers.md R225): with the tone command of the transition. -/
def execLdStVx (x : Reg) (s : State) : Result := .next (s.setST (s.getV x))

end Sys2Proof.Machine
end

