-- ==== Sys2Proof/Machine/Screen.lean ====
section
/-! DEFINITION. CLS and DRW (44_display.md), the two instructions that request a redraw (10_state.md R40). -/

namespace Sys2Proof.Machine

/-- CLS (44_display.md R200). -/
def execCls (s : State) : Result := .next { s with disp := Display.clear, redrawRequest := true }

/-- What DRW leaves once its rows are read: the toggled display, VF last, and the redraw request (44_display.md R202). -/
def State.drawSprite (s : State) (x y : Reg) (rows : List Byte) : State :=
  let c := Canvas.drawRows (s.spriteX x) (s.spriteY y) rows { disp := s.disp, collision := false }
  { s.setFlag c.collision with disp := c.disp, redrawRequest := true }

/-- DRW Vx, Vy, nibble (44_display.md R202): all N rows are bounds-checked and read first, clipped ones too. -/
def execDrw (x y : Reg) (n : Nat) (s : State) : Result :=
  s.attempt (s.memRead s.indexAddr n) (fun rows => s.drawSprite x y rows)

end Sys2Proof.Machine
end

