-- ==== Sys2Proof/Machine/Tick.lean ====
section
/-! DEFINITION. The tick and the frame loop (40_cycle.md R110 to R121): fetch, advance, decode, execute, then the frame
loop's bookkeeping. -/

namespace Sys2Proof.Machine

/-- Fetch the instruction word at PC, big-endian (40_cycle.md R111, 20_memory.md R59). -/
def State.fetch (s : State) : Except FatalError Word :=
  match s.memRead s.pc.toNat 2 with
  | .ok bytes => .ok (wordOfBytes (bytes.getD 0 0) (bytes.getD 1 0))
  | .error e => .error e

/-- The start of a tick: nothing is returned yet (40_cycle.md R113; log entry 5). -/
def State.clearRequest (s : State) : State := { s with redrawRequest := false }

/-- The default advance, before execute (40_cycle.md R112). -/
def State.advancePc (s : State) : State := { s with pc := s.pc + 2 }

/-- Fetch, advance, decode and execute, in that order (40_cycle.md R112, R115); an error enters the fatal mode
(60_exceptions.md R245, R246). -/
def runInstruction (s : State) : Result :=
  match s.fetch with
  | .error e => .next (s.raise e s.pc)
  | .ok w =>
    match decode w with
    | .error _ => .next (s.raise (.undecodableInstruction w s.pc) s.pc)
    | .ok i => exec i s.advancePc

/-- The tick (40_cycle.md R112): defined in mode normal only (R116). What it returns is `redrawRequest`. -/
def tick (s : State) : Result :=
  match s.mode with
  | .fatal e => .fault (.engineStopped e)
  | .normal => runInstruction s.clearRequest

/-- What the frame loop does after a tick that raised no error (40_cycle.md R118). -/
def State.countTick (s : State) : State :=
  let t := { s with redraw := s.redraw || s.redrawRequest, tickCount := s.tickCount + 1 }
  if t.tickCount = t.timerInterval then { t.timerUpdate with tickCount := 0 } else t

/-- Go on from a tick's outcome where it raised no error; an error stops the frame (40_cycle.md R119). -/
def Result.andThen (r : Result) (k : State → Result) : Result :=
  match r with
  | .next t =>
    match t.mode with
    | .normal => k t
    | .fatal _ => .next t
  | .fault e => .fault e
  | .refused e => .refused e

/-- One pass of the frame loop's body (40_cycle.md R118). -/
def frameTick (s : State) : Result := Result.andThen (tick s) (fun t => .next t.countTick)

/-- `repeat n times` of 40_cycle.md R118. -/
def frameLoop : Nat → State → Result
  | 0, s => .next s
  | n + 1, s => Result.andThen (frameTick s) (frameLoop n)

/-- run_frame (40_cycle.md R118, R119), as one operation of the host; it returns `redraw`, or the error in `mode`. -/
def runFrame (s : State) : Result :=
  match s.mode with
  | .fatal e => .fault (.engineStopped e)
  | .normal => frameLoop s.ticksPerFrame { s with redraw := false }

/-! ## One step: one pass of the frame loop (log entry 4) -/

/-- Between frames a step begins the next frame (40_cycle.md R118: `redraw <- false`). -/
def State.openFrame (s : State) : State :=
  if s.frameLeft = 0 then { s with redraw := false, frameLeft := s.ticksPerFrame } else s

/-- A tick of the frame is done; an error ends the frame at once (40_cycle.md R119). -/
def State.closeTick (s : State) : State :=
  { s with frameLeft := match s.mode with
                        | .normal => s.frameLeft - 1
                        | .fatal _ => 0 }

/-- One pass of the frame loop on its own: begin a frame where none is running, run one tick, count it. -/
def stepFrame (s : State) : Result :=
  match s.mode with
  | .fatal e => .fault (.engineStopped e)
  | .normal =>
    match frameTick s.openFrame with
    | .next t => .next t.closeTick
    | .fault e => .fault e
    | .refused e => .refused e

/-- `s` with the word stored at PC, the first byte at PC (20_memory.md R59); unchanged where PC + 1 is outside memory. -/
def State.placeWord (s : State) (w : Word) : State :=
  match s.memWrite s.pc.toNat (bytesOfWord w) with
  | .ok t => t
  | .error _ => s

end Sys2Proof.Machine
end

