-- ==== Sys2Proof/Machine/HostOps.lean ====
section
/-! DEFINITION. What the host may do (40_cycle.md R123): construct, set the pressed keys, run a frame, run a tick, query. -/

namespace Sys2Proof.Machine

/-- Why there is no engine (70_reset_and_hazards.md R270, R271). These are no errors of a run. -/
inductive ConstructionFailure where
  /-- round(clock_speed / 60) is 0: the construction is refused (40_cycle.md R117). -/
  | noTicks
  /-- The program does not fit from the program origin to the memory end (70_reset_and_hazards.md R271). -/
  | programTooLarge
  deriving DecidableEq, Repr

/-- round(clock_speed / 60), half away from zero (40_cycle.md R117). -/
def cadence (clockSpeed : Nat) : Nat := (clockSpeed + 30) / 60

/-- Memory after construction: the font, the program verbatim at PROGRAM_ORIGIN, zero elsewhere (20_memory.md R52). -/
def programMemory (program : List Byte) : Memory := Memory.writeBytes [] Config.programOrigin program

/-- construct(clock_speed, program) (70_reset_and_hazards.md R270), with the named parameters of 00_scope.md R9. -/
def construct (options : Config.Options) (clockSpeed : Nat) (program : List Byte) : Except ConstructionFailure State :=
  if cadence clockSpeed = 0 then .error .noTicks
  else if Config.memSize < Config.programOrigin + program.length then .error .programTooLarge
  else .ok
    { v := Vector.replicate 16 0
      i := 0
      pc := BitVec.ofNat 16 Config.programOrigin
      stack := []
      dt := 0
      st := 0
      disp := Display.clear
      keys := Vector.replicate 16 false
      redraw := false
      tickCount := 0
      toneOn := false
      mode := .normal
      mem := programMemory program
      toneCommands := []
      ticksPerFrame := cadence clockSpeed
      timerInterval := cadence clockSpeed
      options := options
      redrawRequest := false
      frameLeft := 0
      draws := 0 }

/-- The calls of 40_cycle.md R123 that change the state. -/
inductive HostCall where
  /-- set_keys(S) (40_cycle.md R120). -/
  | setKeys (keys : KeySet)
  /-- run_frame() (40_cycle.md R118). -/
  | runFrame
  /-- tick() outside a frame (40_cycle.md R123): it does not count towards tick_count. -/
  | tick
  deriving DecidableEq, Repr

/-- set_keys(S): the whole set is replaced (40_cycle.md R120). -/
def State.setKeys (s : State) (keys : KeySet) : State := { s with keys := keys }

/-- A call of the host: in mode normal, between frames (40_cycle.md R120, R123); a call during a frame is refused
(93_implementation_defined.md U8) and one after an error finds the engine stopped (U9). -/
def hostCall (c : HostCall) (s : State) : Result :=
  match s.mode with
  | .fatal e => .fault (.engineStopped e)
  | .normal =>
    if s.frameLeft ≠ 0 then .refused .hostCallDuringFrame
    else
      match c with
      | .setKeys keys => .next (s.setKeys keys)
      | .runFrame => runFrame s
      | .tick => tick s

/-- Query framebuffer (40_cycle.md R122). -/
def queryFramebuffer (s : State) : Display := s.disp

/-- Query redraw flag (40_cycle.md R122). -/
def queryRedraw (s : State) : Bool := s.redraw

/-- The numeric code of an error (60_exceptions.md R241). -/
def FatalError.code : FatalError → Nat
  | .undecodableInstruction _ _ => 1
  | .outOfBoundsMemoryAccess _ => 2
  | .stackUnderflow _ => 3
  | .stackOverflow _ => 4

end Sys2Proof.Machine
end

