-- ==== Sys2Proof/Machine/Step.lean ====
section
/-! DEFINITION. The step: one pass of the frame loop of 40_cycle.md R118 (log entry 4). -/

namespace Sys2Proof.Machine

/-- One step: one tick of the running frame, with what the frame loop does around it. -/
def step (s : State) : Host.Outcome State Fault Refusal := stepFrame s

/-- `s` with the table word `w` of `nbits` bits stored where `step` fetches its next instruction, as a load of that
instruction from outside would leave it (log entry 16). -/
def State.withFetchWord (s : State) (nbits w : Nat) : State := s.placeWord (tableWord nbits w)

end Sys2Proof.Machine
end

