-- ==== Sys2Proof/Safety.lean ====
section
/-! DEFINITION. What counts as a safe run, and the vocabulary of the claims: which error a tick raises, the invariants,
the reachable states, and what an instruction leaves unchanged. None of it is used by the machine. -/

namespace Sys2Proof.Machine

/-! ## Errors (60_exceptions.md R241 to R246) -/

/-- The error of an instruction's execute phase, from the tables of 60_exceptions.md R241 to R244. -/
def executeError (i : Instr) (s : State) : Option FatalError :=
  match i with
  | .ret => if s.stack = [] then some (.stackUnderflow (s.pc - 2)) else none
  | .call _ => if s.options.stackLimit = some s.stack.length then some (.stackOverflow s.pc) else none
  | .drw _ _ n =>
    if 0 < n ∧ 4096 ≤ s.i.toNat + n - 1 then some (.outOfBoundsMemoryAccess (s.i.toNat + n - 1)) else none
  | .ldB _ => if 4096 ≤ s.i.toNat + 2 then some (.outOfBoundsMemoryAccess (s.i.toNat + 2)) else none
  | .ldMemVx x | .ldVxMem x =>
    if 4096 ≤ s.i.toNat + x.val then some (.outOfBoundsMemoryAccess (s.i.toNat + x.val)) else none
  | .addI x =>
    if s.options.indexWrap = .fault ∧ 0xFFFF < s.i.toNat + (s.getV x).toNat then
      some (.outOfBoundsMemoryAccess (s.i.toNat + (s.getV x).toNat))
    else none
  | .cls | .jp _ | .seByte _ _ | .sneByte _ _ | .seReg _ _ | .ldByte _ _ | .addByte _ _ | .ldReg _ _ | .orReg _ _
  | .andReg _ _ | .xorReg _ _ | .addReg _ _ | .sub _ _ | .shr _ _ | .subn _ _ | .shl _ _ | .sneReg _ _ | .ldI _
  | .jpV0 _ | .rnd _ _ | .skp _ | .sknp _ | .ldVxDt _ | .ldVxK _ | .ldDtVx _ | .ldStVx _ | .ldF _ => none

/-- The word that stands at PC (20_memory.md R59). -/
def State.wordAtPc (s : State) : Word := wordOfBytes (s.mem.read s.pc.toNat) (s.mem.read (s.pc.toNat + 1))

/-- The error of a whole tick, in the order of 60_exceptions.md R245: fetch bounds, decode, execute-phase check. -/
def tickError (s : State) : Option FatalError :=
  if 4096 ≤ s.pc.toNat + 1 then some (.outOfBoundsMemoryAccess (s.pc.toNat + 1))
  else
    match decode s.wordAtPc with
    | .error _ => some (.undecodableInstruction s.wordAtPc s.pc)
    | .ok i => executeError i { s with pc := s.pc + 2 }

/-- `t` is `s` in the fatal mode of `e` and otherwise unchanged, but for PC, which is `a` or `a + 2`
(60_exceptions.md R246, R247). -/
def EntersFatal (s t : State) (e : FatalError) (a : Word) : Prop :=
  t = { s with mode := .fatal e, pc := t.pc } ∧ (t.pc = a ∨ t.pc = a + 2)

/-- A step that raises no error. -/
def SafeStep (s : State) : Prop := ∃ t, step s = .next t ∧ t.mode = .normal

/-- A safe run of `n` steps: no error is raised. -/
def SafeRun (n : Nat) (s : State) : Prop := ∃ t, Host.Core.run core n s = .next t ∧ t.mode = .normal

/-! ## What an instruction leaves unchanged -/

/-- Every byte of memory reads as before. -/
def SameMemory (s t : State) : Prop := ∀ a, t.mem.read a = s.mem.read a

/-- `V[x]` is `u`; every other register and everything else is unchanged. -/
def WritesOnly (s t : State) (x : Reg) (u : Byte) : Prop :=
  t.getV x = u ∧ (∀ r, r ≠ x → t.getV r = s.getV r) ∧ t = { s with v := t.v } ∧ SameMemory s t

/-- VF is the flag, `V[x]` is `u` unless X is F (42_alu.md R151); everything else is unchanged. -/
def WritesResultAndFlag (s t : State) (x : Reg) (u : Byte) (flag : Bool) : Prop :=
  t.getV 15 = (if flag then 1 else 0) ∧ (x ≠ 15 → t.getV x = u) ∧
    (∀ r, r ≠ x → r ≠ 15 → t.getV r = s.getV r) ∧ t = { s with v := t.v } ∧ SameMemory s t

/-- The instructions that write VF implicitly, and no others (10_state.md R22). -/
def writesFlag : Instr → Bool
  | .addReg _ _ | .sub _ _ | .shr _ _ | .subn _ _ | .shl _ _ | .drw _ _ _ => true
  | .cls | .ret | .jp _ | .call _ | .seByte _ _ | .sneByte _ _ | .seReg _ _ | .ldByte _ _ | .addByte _ _ | .ldReg _ _
  | .orReg _ _ | .andReg _ _ | .xorReg _ _ | .sneReg _ _ | .ldI _ | .jpV0 _ | .rnd _ _ | .skp _ | .sknp _ | .ldVxDt _
  | .ldVxK _ | .ldDtVx _ | .ldStVx _ | .addI _ | .ldF _ | .ldB _ | .ldMemVx _ | .ldVxMem _ => false

/-- The general registers an instruction names as its destination (its X field; V0..VX for LD Vx, [I]). -/
def namesAsDestination (i : Instr) (r : Reg) : Bool :=
  match i with
  | .ldByte x _ | .addByte x _ | .ldReg x _ | .orReg x _ | .andReg x _ | .xorReg x _ | .addReg x _ | .sub x _
  | .shr x _ | .subn x _ | .shl x _ | .rnd x _ | .ldVxDt x | .ldVxK x => decide (r = x)
  | .ldVxMem x => decide (r.val ≤ x.val)
  | .cls | .ret | .jp _ | .call _ | .seByte _ _ | .sneByte _ _ | .seReg _ _ | .sneReg _ _ | .ldI _ | .jpV0 _
  | .drw _ _ _ | .skp _ | .sknp _ | .ldDtVx _ | .ldStVx _ | .addI _ | .ldF _ | .ldB _ | .ldMemVx _ => false

/-! ## Keys and sprites, said without the machine's loops -/

/-- `u` is a pressed key's identifier (45_input_timers.md R220). -/
def KeyPressed (s : State) (u : Byte) : Prop := ∃ k : Fin 16, k.val = u.toNat ∧ s.keys[k] = true

/-- `k` is pressed and no other key is (45_input_timers.md R222). -/
def OnlyKeyPressed (s : State) (k : Fin 16) : Prop := ∀ j : Fin 16, s.keys[j] = true ↔ j = k

/-- The sprite of `n` rows at `I`, drawn with its top left corner at (x0, y0), has a set bit over cell (px, py)
(44_display.md R201, R202). -/
def spriteBit (s : State) (x0 y0 n px py : Nat) : Bool :=
  decide (x0 ≤ px ∧ px < x0 + 8 ∧ y0 ≤ py ∧ py < y0 + n) &&
    (s.mem.read (s.i.toNat + (py - y0))).getLsbD (7 - (px - x0))

/-! ## Stores, said without the machine's loops -/

/-- The byte that stands at `a` after LD B, Vx at `I`: hundreds, tens, ones, and everywhere else what stood there before
(43_index_memory.md R183). -/
def byteAfterBcd (s : State) (x : Reg) (a : Nat) : Byte :=
  if a = s.indexAddr then BitVec.ofNat 8 ((s.getV x).toNat / 100)
  else if a = s.indexAddr + 1 then BitVec.ofNat 8 ((s.getV x).toNat / 10 % 10)
  else if a = s.indexAddr + 2 then BitVec.ofNat 8 ((s.getV x).toNat % 10)
  else s.mem.read a

/-- The byte that stands at `a` after LD [I], Vx at `I`: V0 to `V[X]`, and everywhere else what stood there before
(43_index_memory.md R184). -/
def byteAfterDump (s : State) (x : Reg) (a : Nat) : Byte :=
  if h : s.indexAddr ≤ a ∧ a ≤ s.indexAddr + x.val then s.getV ⟨a - s.indexAddr, by omega⟩ else s.mem.read a

/-! ## Calls and returns in a row, each advanced and executed as a tick does (40_cycle.md R112) -/

/-- A CALL at PC for each target, one after the other: the next CALL stands at the target of the one before. -/
def callAll : List Addr → State → Result
  | [], s => .next s
  | nnn :: rest, s => Result.andThen (exec (.call nnn) s.advancePc) (callAll rest)

/-- `n` times a RET at PC. -/
def retTimes : Nat → State → Result
  | 0, s => .next s
  | n + 1, s => Result.andThen (exec .ret s.advancePc) (retTimes n)

/-! ## Frames -/

/-- `n` ticks in a row, without the frame loop's bookkeeping; it stops at the first error. -/
def ticks : Nat → State → Result
  | 0, s => .next s
  | n + 1, s => Result.andThen (tick s) (ticks n)

/-- The instructions that request a redraw (10_state.md R40). -/
def requestsRedraw (i : Instr) : Bool :=
  match i with
  | .cls | .drw _ _ _ => true
  | .ret | .jp _ | .call _ | .seByte _ _ | .sneByte _ _ | .seReg _ _ | .ldByte _ _ | .addByte _ _ | .ldReg _ _
  | .orReg _ _ | .andReg _ _ | .xorReg _ _ | .addReg _ _ | .sub _ _ | .shr _ _ | .subn _ _ | .shl _ _ | .sneReg _ _
  | .ldI _ | .jpV0 _ | .rnd _ _ | .skp _ | .sknp _ | .ldVxDt _ | .ldVxK _ | .ldDtVx _ | .ldStVx _ | .addI _ | .ldF _
  | .ldB _ | .ldMemVx _ | .ldVxMem _ => false

/-! ## Invariants -/

/-- Memory is in its canonical form, inside the 4096 bytes (20_memory.md R50). -/
def MemoryCanonical (s : State) : Prop := s.mem.wf = true

/-- Whether the tone sounds after these commands, from silence; `none` where the commands do not alternate, start first. -/
def toneAfter : List ToneCommand → Bool → Option Bool
  | [], on => some on
  | .start :: cs, false => toneAfter cs true
  | .stop :: cs, true => toneAfter cs false
  | .start :: _, true | .stop :: _, false => none

/-- `tone_on = (ST != 0)`, and the commands emitted alternate, start first, and leave the tone as `tone_on` says
(10_state.md R43, 60_exceptions.md R253). -/
def ToneConsistent (s : State) : Prop :=
  s.toneOn = decide (s.st ≠ 0) ∧ toneAfter s.toneCommands false = some s.toneOn

/-- The frame loop's counters (10_state.md R42, 40_cycle.md R117, R118): the two counts are equal and positive,
tick_count stays below TIMER_INTERVAL, and in mode normal the ticks done and the ticks left make up the frame. -/
def CadenceConsistent (s : State) : Prop :=
  0 < s.ticksPerFrame ∧ s.timerInterval = s.ticksPerFrame ∧ s.tickCount < s.timerInterval ∧
    (s.mode = .normal → s.frameLeft = 0 ∧ s.tickCount = 0 ∨
      0 < s.frameLeft ∧ s.tickCount + s.frameLeft = s.ticksPerFrame) ∧
    (s.mode ≠ .normal → s.frameLeft = 0)

/-- PC never passes 0x10FE while the engine runs, and no return address passes 0x1000 (10_state.md R28). -/
def PcInRange (s : State) : Prop :=
  (s.mode = .normal → s.pc.toNat ≤ 0x10FE) ∧ ∀ a ∈ s.stack, a.toNat ≤ 0x1000

/-- The invariants together. -/
structure Invariant (s : State) : Prop where
  memory : MemoryCanonical s
  tone : ToneConsistent s
  cadence : CadenceConsistent s
  pc : PcInRange s

/-- The states a host can bring the engine to (40_cycle.md R123): by construction, by its calls, and by the single
passes of the frame loop that `step` makes of a frame. -/
inductive Reachable : State → Prop where
  | constructed {options : Config.Options} {clockSpeed : Nat} {program : List Byte} {s : State} :
      construct options clockSpeed program = .ok s → Reachable s
  | called {c : HostCall} {s t : State} : Reachable s → hostCall c s = .next t → Reachable t
  | stepped {s t : State} : Reachable s → step s = .next t → Reachable t

end Sys2Proof.Machine
end

