-- ==== Sys2Proof/Certificates/Slice0/Obligations.lean ====
section
/-! DEFINITION. The statements for the provers. Each docstring names the rule of spec/ it formalises; where a clause is
the model's own choice it says so and names the log entry. -/

open Sys2Proof Sys2Proof.Machine

/-! ## Encoding -/

/-- Words of every format, with the operands that 95_test_vectors.md reads from them (sections 2.2 to 2.7). -/
def Obligations.VectorWordsDecodeToTheirInstructions : Prop :=
  decode 0x00E0 = .ok .cls ∧ decode 0x00EE = .ok .ret ∧ decode 0x1ABC = .ok (.jp 0xABC) ∧
  decode 0x2ABC = .ok (.call 0xABC) ∧ decode 0x3307 = .ok (.seByte 3 0x07) ∧ decode 0x5120 = .ok (.seReg 1 2) ∧
  decode 0x7C80 = .ok (.addByte 12 0x80) ∧ decode 0x812E = .ok (.shl 1 2) ∧ decode 0xC30F = .ok (.rnd 3 0x0F) ∧
  decode 0xD4A7 = .ok (.drw 4 10 7) ∧ decode 0xE1A1 = .ok (.sknp 1) ∧ decode 0xF30A = .ok (.ldVxK 3) ∧
  decode 0xF265 = .ok (.ldVxMem 2)

/-- 30_encoding.md R101: encoding is the inverse of decoding, for every well-formed instruction, as a word and as bytes
with anything after them. -/
def Obligations.DecodeInvertsEncode : Prop :=
  ∀ i : Instr, i.wellFormed = true →
    decode (encode i) = .ok i ∧ ∀ rest : List Byte, decodeBytes (encodeBytes i ++ rest) = .ok (i, rest)

/-- 30_encoding.md R87: a word decodes to the one instruction whose row it matches, with exactly its operand fields
(encoding gives the word back), or it matches no row and fails under its own name. -/
def Obligations.EveryWordDecodesUniquelyOrFails : Prop :=
  ∀ w : Word,
    (∃ i : Instr, decode w = .ok i ∧ i.wellFormed = true ∧ encode i = w ∧
      ∀ row ∈ opcodeTable, w &&& row.mask = row.value ↔ row = i.row) ∨
    (decode w = .error (.undecodable w) ∧ ∀ row ∈ opcodeTable, w &&& row.mask ≠ row.value)

/-! ## Fetch, tick, step -/

/-- 40_cycle.md R111. The fetch reads the big-endian word at PC, or raises OutOfBoundsMemoryAccess(PC + 1)
(`redrawRequest` and the form of the fatal state are the model's, log entries 5, 7 and 8). -/
def Obligations.FetchReadsBigEndianOrRaises : Prop :=
  ∀ s : State,
    (s.pc.toNat < 0xFFF → ∃ w : Word, s.fetch = .ok w ∧
      w.toNat = (s.mem.read s.pc.toNat).toNat * 256 + (s.mem.read (s.pc.toNat + 1)).toNat) ∧
    (0xFFF ≤ s.pc.toNat → s.fetch = .error (.outOfBoundsMemoryAccess (s.pc.toNat + 1)) ∧
      (s.mode = .normal → ∃ t, tick s = .next t ∧
        EntersFatal { s with redrawRequest := false } t (.outOfBoundsMemoryAccess (s.pc.toNat + 1)) s.pc))

/-- 30_encoding.md R95. An undecodable word at PC, in memory, raises UndecodableInstruction(w, a) and changes nothing but
the mode and PC (`redrawRequest` is the model's own field, log entry 5). -/
def Obligations.UndecodableWordIsFatal : Prop :=
  ∀ (s : State) (e : DecodeError), s.mode = .normal → s.pc.toNat < 0xFFF → decode s.wordAtPc = .error e →
    ∃ t, tick s = .next t ∧
      EntersFatal { s with redrawRequest := false } t (.undecodableInstruction s.wordAtPc s.pc) s.pc

/-- A step runs the instruction that stands at PC: it advances PC, executes (40_cycle.md R112, R113), and then, unless the
instruction raised an error, counts the tick as the frame loop does (R118). That one step is one pass of the frame loop,
and that it begins the next frame by itself where none runs (`openFrame`, `closeTick`), is the model's choice (log entry
4): in R118 and R123 a frame begins only when the host calls run_frame. `redrawRequest` is log entry 5. -/
def Obligations.StepRunsTheDecodedInstruction : Prop :=
  ∀ (s : State) (i : Instr), s.mode = .normal → s.pc.toNat < 0xFFF → decode s.wordAtPc = .ok i →
    step s =
      match exec i { s.openFrame with redrawRequest := false, pc := s.pc + 2 } with
      | .next t => .next (if t.mode = .normal then t.countTick.closeTick else t.closeTick)
      | .fault e => .fault e
      | .refused e => .refused e

/-- `withFetchWord` stores the word where the next step fetches it, changes no other byte and nothing else (log entry 16).
The step after it runs the instruction the word decodes to, and raises UndecodableInstruction where it decodes to none;
that this step begins a frame where none runs is the model's choice (log entry 4). -/
def Obligations.PlacedWordIsTheNextInstruction : Prop :=
  ∀ (s : State) (w : Nat), s.mode = .normal → MemoryCanonical s → s.pc.toNat < 0xFFF →
    (s.withFetchWord 16 w).fetch = .ok (BitVec.ofNat 16 w) ∧
    s.withFetchWord 16 w = { s with mem := (s.withFetchWord 16 w).mem } ∧
    (∀ a, a ≠ s.pc.toNat → a ≠ s.pc.toNat + 1 → (s.withFetchWord 16 w).mem.read a = s.mem.read a) ∧
    (∀ i, decodeTableWord 16 w = some i → decode (BitVec.ofNat 16 w) = .ok i ∧
      step (s.withFetchWord 16 w) =
        match exec i { (s.withFetchWord 16 w).openFrame with redrawRequest := false, pc := s.pc + 2 } with
        | .next t => .next (if t.mode = .normal then t.countTick.closeTick else t.closeTick)
        | .fault e => .fault e
        | .refused e => .refused e) ∧
    (decodeTableWord 16 w = none → decode (BitVec.ofNat 16 w) = .error (.undecodable (BitVec.ofNat 16 w)) ∧
      ∃ t, step (s.withFetchWord 16 w) = .next t ∧
        t.mode = .fatal (.undecodableInstruction (BitVec.ofNat 16 w) s.pc))

/-- 40_cycle.md R116: in mode fatal the tick is not defined. No tick, no step, no run_frame and no call of the host has an
outcome there; that each of them is the fault `engineStopped` is the model's form of it (log entry 7 for the tick and the
step, log entry 17 for the host's calls, set_keys too). -/
def Obligations.FatalModeHasNoStep : Prop :=
  ∀ (s : State) (e : FatalError), s.mode = .fatal e →
    tick s = .fault (.engineStopped e) ∧ step s = .fault (.engineStopped e) ∧ runFrame s = .fault (.engineStopped e) ∧
    ∀ c : HostCall, hostCall c s = .fault (.engineStopped e)

/-- 60_exceptions.md R241 to R244: the execute phase of every instruction answers a next state, in mode fatal exactly
under the condition the tables give, with the info they give, and otherwise in the mode it started in. -/
def Obligations.ExecuteFailsExactlyAsListed : Prop :=
  ∀ (i : Instr) (s : State), ∃ t, exec i s = .next t ∧
    match executeError i s with
    | none => t.mode = s.mode
    | some e => EntersFatal s t e (s.pc - 2)

/-- 60_exceptions.md R245, 40_cycle.md R115 (both the spec's own inference). One tick raises at most one error, the
first of fetch bounds, decode, execute-phase check. -/
def Obligations.TickRaisesTheFirstErrorOnly : Prop :=
  ∀ s : State, s.mode = .normal → ∃ t, tick s = .next t ∧
    match tickError s with
    | none => t.mode = .normal
    | some e => t.mode = .fatal e

/-- 60_exceptions.md R247, precision: after a tick's error the state is the one before it but for the mode and PC, which
is a or a + 2 (`redrawRequest` is the model's own field, log entry 5; PC is a free value, log entry 8). -/
def Obligations.ErrorsArePrecise : Prop :=
  ∀ (s t : State) (e : FatalError), tick s = .next t → t.mode = .fatal e →
    EntersFatal { s with redrawRequest := false } t e s.pc

/-- 40_cycle.md R119: an error stops the frame at once; the failing tick is not counted and no timer update follows it
(`frameLeft` and `redrawRequest` are the model's own fields, log entries 4 and 5). That the next step is the fault
`engineStopped` is the model's form of R116 and R246 (log entry 7). -/
def Obligations.ErrorStopsTheFrameUncounted : Prop :=
  ∀ (s t : State) (e : FatalError), step s = .next t → t.mode = .fatal e →
    t.tickCount = s.tickCount ∧ t.dt = s.dt ∧ t.st = s.st ∧ t.toneOn = s.toneOn ∧ t.toneCommands = s.toneCommands ∧
    t.v = s.v ∧ t.i = s.i ∧ t.stack = s.stack ∧ t.disp = s.disp ∧ t.keys = s.keys ∧ t.mem = s.mem ∧ t.frameLeft = 0 ∧
    step t = .fault (.engineStopped e)

/-- 40_cycle.md R114. A tick does not touch tick_count, redraw or keys (nor what construction fixed); DT changes only by
FX15, ST and tone_on only by FX18. -/
def Obligations.TickTouchesTimersOnlyByFX15AndFX18 : Prop :=
  ∀ s t : State, tick s = .next t →
    t.tickCount = s.tickCount ∧ t.redraw = s.redraw ∧ t.keys = s.keys ∧ t.ticksPerFrame = s.ticksPerFrame ∧
    t.timerInterval = s.timerInterval ∧ t.options = s.options ∧ t.frameLeft = s.frameLeft ∧
    (t.dt ≠ s.dt → ∃ x, decode s.wordAtPc = .ok (.ldDtVx x)) ∧
    (t.st ≠ s.st ∨ t.toneOn ≠ s.toneOn ∨ t.toneCommands ≠ s.toneCommands →
      ∃ x, decode s.wordAtPc = .ok (.ldStVx x))

/-- 10_state.md R40: a tick requests a redraw exactly when it executes CLS or DRW, and the flag is cleared at the start of
a frame and set if a tick of the frame requested one; it is false at reset. That a step begins the next frame by itself
where `frameLeft` is 0, and that a tick's returned value is `redrawRequest`, are the model's choices (log entries 4, 5). -/
def Obligations.RedrawFollowsClsAndDrwOnly : Prop :=
  State.reset.redraw = false ∧
  ∀ (s t : State) (i : Instr), s.pc.toNat < 0xFFF → decode s.wordAtPc = .ok i → step s = .next t → t.mode = .normal →
    t.redrawRequest = requestsRedraw i ∧
    t.redraw = ((if s.frameLeft = 0 then false else s.redraw) || requestsRedraw i)

/-- 40_cycle.md R118, 60_exceptions.md R250: a step that raises no error is its tick, then the count, then at
TIMER_INTERVAL the timer update with its tone stop; nothing else differs from what the tick left, but for the redraw flag
and `frameLeft` (the model's own field). That a step begins the next frame by itself where `frameLeft` is 0 is the model's
choice (log entry 4). -/
def Obligations.StepCountsTicksAndUpdatesTimers : Prop :=
  ∀ s t : State, step s = .next t → t.mode = .normal → ∃ u, tick s = .next u ∧ u.mode = .normal ∧
    t = { u with tickCount := t.tickCount, dt := t.dt, st := t.st, toneOn := t.toneOn,
                 toneCommands := t.toneCommands, redraw := t.redraw, frameLeft := t.frameLeft } ∧
    t.redraw = ((if s.frameLeft = 0 then false else s.redraw) || u.redrawRequest) ∧
    t.frameLeft = (if s.frameLeft = 0 then s.ticksPerFrame else s.frameLeft) - 1 ∧
    if s.tickCount + 1 = s.timerInterval then
      t.tickCount = 0 ∧ t.dt = countDown u.dt ∧ t.st = countDown u.st ∧ t.toneOn = decide (t.st ≠ 0) ∧
        t.toneCommands = u.toneCommands ++ (if u.st.toNat = 1 then [.stop] else [])
    else
      t.tickCount = s.tickCount + 1 ∧ t.dt = u.dt ∧ t.st = u.st ∧ t.toneOn = u.toneOn ∧
        t.toneCommands = u.toneCommands

/-- 60_exceptions.md R250: both timers count down by one and saturate at zero, the tone stops where ST goes from 1 to 0,
and nothing else changes. -/
def Obligations.TimerUpdateCountsDown : Prop :=
  ∀ s : State,
    s.timerUpdate.dt.toNat = s.dt.toNat - 1 ∧ s.timerUpdate.st.toNat = s.st.toNat - 1 ∧
    s.timerUpdate.toneOn = decide (s.timerUpdate.st ≠ 0) ∧
    s.timerUpdate.toneCommands = s.toneCommands ++ (if s.st.toNat = 1 then [.stop] else []) ∧
    s.timerUpdate = { s with dt := s.timerUpdate.dt, st := s.timerUpdate.st, toneOn := s.timerUpdate.toneOn,
                             toneCommands := s.timerUpdate.toneCommands }

/-- run_frame of 40_cycle.md R118, R119 against the step: from between frames, TICKS_PER_FRAME steps do what one
run_frame does, and where run_frame ends in an error the step that raises it ends in the same state. What one
step is, and that the first of them begins the frame, is the model's choice (log entry 4). -/
def Obligations.RunFrameIsTicksPerFrameSteps : Prop :=
  ∀ s : State, s.mode = .normal → s.frameLeft = 0 → 0 < s.ticksPerFrame →
    (∀ t, runFrame s = .next t → t.mode = .normal → Host.Core.run core s.ticksPerFrame s = .next t) ∧
    (∀ t e, runFrame s = .next t → t.mode = .fatal e →
      ∃ k, k < s.ticksPerFrame ∧ Host.Core.run core (k + 1) s = .next t)

/-- 40_cycle.md R118: in a complete frame the timers are decremented exactly once, after the last tick, and tick_count is
back at 0; the frame is otherwise its ticks in a row. -/
def Obligations.CompleteFrameUpdatesTimersOnce : Prop :=
  ∀ s t : State, CadenceConsistent s → s.frameLeft = 0 → runFrame s = .next t → t.mode = .normal →
    t.tickCount = 0 ∧ ∃ u, ticks s.ticksPerFrame { s with redraw := false } = .next u ∧
      t = { u.timerUpdate with tickCount := 0, redraw := t.redraw }

/-! ## Construction and the host's calls -/

/-- 70_reset_and_hazards.md R271, 40_cycle.md R117: construction fails exactly for a zero tick count and for a program
that does not fit; round(clock_speed / 60) is half away from zero. The tick count is checked first, as R270's pseudocode
has it; that clock speed 0, which R270 does not admit, is refused in the same way is the model's choice (log entry 21). -/
def Obligations.ConstructionFailsExactlyAsListed : Prop :=
  ∀ (o : Config.Options) (clockSpeed : Nat) (program : List Byte),
    (clockSpeed < 30 → construct o clockSpeed program = .error .noTicks) ∧
    (30 ≤ clockSpeed → 3584 < program.length → construct o clockSpeed program = .error .programTooLarge) ∧
    (30 ≤ clockSpeed → program.length ≤ 3584 → ∃ s, construct o clockSpeed program = .ok s ∧
      s.ticksPerFrame = (clockSpeed + 30) / 60 ∧ s.timerInterval = (clockSpeed + 30) / 60)

/-- 70_reset_and_hazards.md R270, R272: what construction leaves in every component: the program verbatim at 0x200, the
font and zeros elsewhere in memory, zero or empty or off elsewhere, the two counts from the clock speed
(the values of the spec's decisions D2 to D4; the fields `redrawRequest`, `frameLeft` and `draws` are the model's own, log
entries 4, 5 and 9). -/
def Obligations.ConstructionLoadsTheProgram : Prop :=
  ∀ (o : Config.Options) (clockSpeed : Nat) (program : List Byte) (s : State),
    construct o clockSpeed program = .ok s →
    (∀ a, s.mem.read a =
      if h : 0x200 ≤ a ∧ a < 0x200 + program.length then program[a - 0x200]'(by omega)
      else if 0x050 ≤ a ∧ a < 0x0A0 then Config.font.getD (a - 0x050) 0 else 0) ∧
    (∀ r, s.getV r = 0) ∧ s.i = 0 ∧ s.pc = 0x200 ∧ s.stack = [] ∧ s.dt = 0 ∧ s.st = 0 ∧
    (∀ x y, s.disp.cell x y = false) ∧ (∀ k : Fin 16, s.keys[k] = false) ∧ s.redraw = false ∧ s.tickCount = 0 ∧
    s.toneOn = false ∧ s.toneCommands = [] ∧ s.mode = .normal ∧
    s.ticksPerFrame = (clockSpeed + 30) / 60 ∧ s.timerInterval = (clockSpeed + 30) / 60 ∧ s.options = o

/-- `State.reset` is the construction with the default options, clock speed 400 and the empty program (log entries 2 and
16: the clock speed and the empty program are the model's choice; 400 is that of 95_test_vectors.md). -/
def Obligations.ResetIsTheDefaultConstruction : Prop :=
  construct Config.Options.default Config.defaultClockSpeed [] = .ok State.reset ∧ State.reset.pc = 0x200 ∧
  State.reset.mode = .normal ∧ State.reset.stack = [] ∧ State.reset.mem = []

/-- 40_cycle.md R120: set_keys replaces the whole key set and nothing else, between frames only (during a frame it is
refused, log entry 14). -/
def Obligations.SetKeysReplacesKeysBetweenFrames : Prop :=
  ∀ (s : State) (keys : KeySet), s.mode = .normal →
    (s.frameLeft = 0 → hostCall (.setKeys keys) s = .next { s with keys := keys }) ∧
    (s.frameLeft ≠ 0 → hostCall (.setKeys keys) s = .refused .hostCallDuringFrame)

/-! ## Invariants -/

/-- Every constructed state meets the invariants, and so does the reset state. -/
def Obligations.ConstructedStatesMeetTheInvariant : Prop :=
  Invariant State.reset ∧
  ∀ (o : Config.Options) (clockSpeed : Nat) (program : List Byte) (s : State),
    construct o clockSpeed program = .ok s → Invariant s

/-- Every step keeps memory in its canonical form inside the 4096 bytes (20_memory.md R50, R56). -/
def Obligations.StepKeepsMemoryCanonical : Prop :=
  ∀ s t : State, MemoryCanonical s → step s = .next t → MemoryCanonical t

/-- 10_state.md R43, 60_exceptions.md R253: every step keeps `tone_on = (ST != 0)` and the alternation of the commands
(kept as a list in State, log entry 6). -/
def Obligations.StepKeepsToneConsistent : Prop :=
  ∀ s t : State, ToneConsistent s → step s = .next t → ToneConsistent t

/-- 10_state.md R42: every step keeps the frame loop's counters consistent, `frameLeft` (the model's own field, log
entry 4) among them. -/
def Obligations.StepKeepsCadenceConsistent : Prop :=
  ∀ s t : State, CadenceConsistent s → step s = .next t → CadenceConsistent t

/-- 10_state.md R28: every step keeps PC at most 0x10FE and the return addresses at most 0x1000, so PC never wraps. -/
def Obligations.StepKeepsPcInRange : Prop :=
  ∀ s t : State, PcInRange s → step s = .next t → PcInRange t

/-- Every state that the host's calls and their steps reach from a construction meets the invariants (what a step
is, and when a host's call has an outcome: log entries 4 and 17). -/
def Obligations.ReachableStatesMeetTheInvariant : Prop :=
  ∀ s : State, Reachable s → Invariant s

/-! ## Whole-machine rules: which instructions may change what -/

/-- 10_state.md R22: VF is written implicitly by ADD, SUB, SHR, SUBN, SHL (8XYn) and DRW only; any other instruction
changes a register only by naming it as its destination. -/
def Obligations.RegistersChangeOnlyByNameOrFlag : Prop :=
  ∀ (i : Instr) (s t : State) (r : Reg), exec i s = .next t → t.getV r ≠ s.getV r →
    namesAsDestination i r = true ∨ (r = 15 ∧ writesFlag i = true)

/-- 44_display.md R205: CLS and DRW are the only instructions that write the display. -/
def Obligations.DisplayChangesOnlyByClsAndDrw : Prop :=
  ∀ (i : Instr) (s t : State), exec i s = .next t → t.disp ≠ s.disp → i = .cls ∨ ∃ x y n, i = .drw x y n

/-- 20_memory.md R60: only LD B, Vx and LD [I], Vx write memory, and only I .. I+2 and I .. I+X. -/
def Obligations.MemoryChangesOnlyByBcdAndDump : Prop :=
  ∀ (i : Instr) (s t : State) (a : Nat), MemoryCanonical s → exec i s = .next t → t.mem.read a ≠ s.mem.read a →
    (∃ x, i = .ldB x ∧ s.i.toNat ≤ a ∧ a < s.i.toNat + 3) ∨
    (∃ x, i = .ldMemVx x ∧ s.i.toNat ≤ a ∧ a < s.i.toNat + x.val + 1)

/-- 10_state.md R29: CALL pushes, RET pops, no other instruction writes the stack. -/
def Obligations.StackChangesOnlyByCallAndRet : Prop :=
  ∀ (i : Instr) (s t : State), exec i s = .next t → t.stack ≠ s.stack →
    (∃ nnn, i = .call nnn ∧ t.stack = s.pc :: s.stack) ∨ (i = .ret ∧ s.stack = t.pc :: t.stack)

/-- 10_state.md R24: I is written by ANNN, FX1E and FX29 only; by FX55 and FX65 too under LOAD_STORE_INCREMENTS_I
(43_index_memory.md R184, R185). -/
def Obligations.IndexChangesOnlyByItsWriters : Prop :=
  ∀ (i : Instr) (s t : State), exec i s = .next t → t.i ≠ s.i →
    (∃ nnn, i = .ldI nnn) ∨ (∃ x, i = .addI x) ∨ (∃ x, i = .ldF x) ∨
    (s.options.loadStoreIncrementsI = true ∧ ∃ x, i = .ldMemVx x ∨ i = .ldVxMem x)

/-- 41_control.md R138: in an execute phase that raises no error, PC is written only by the jumps, CALL, RET, the skips
and the rewind of LD Vx, K. -/
def Obligations.PcChangesOnlyByControlTransfers : Prop :=
  ∀ (i : Instr) (s t : State), exec i s = .next t → executeError i s = none → t.pc ≠ s.pc →
    (∃ nnn, i = .jp nnn ∨ i = .call nnn ∨ i = .jpV0 nnn) ∨ i = .ret ∨
    (∃ x nn, i = .seByte x nn ∨ i = .sneByte x nn) ∨ (∃ x y, i = .seReg x y ∨ i = .sneReg x y) ∨
    (∃ x, i = .skp x ∨ i = .sknp x ∨ i = .ldVxK x)

/-! ## Results and completion, instruction by instruction -/

/-- 42_alu.md R152 to R157: LD, ADD byte, LD, OR, AND, XOR write `V[X]` and nothing else; VF only where X is F. -/
def Obligations.LoadsAndLogicWriteVxOnly : Prop :=
  ∀ (s : State) (x y : Reg) (nn : Byte),
    (∃ t, exec (.ldByte x nn) s = .next t ∧ WritesOnly s t x nn) ∧
    (∃ t, exec (.addByte x nn) s = .next t ∧ WritesOnly s t x (BitVec.ofNat 8 (((s.getV x).toNat + nn.toNat) % 256))) ∧
    (∃ t, exec (.ldReg x y) s = .next t ∧ WritesOnly s t x (s.getV y)) ∧
    (∃ t, exec (.orReg x y) s = .next t ∧ WritesOnly s t x (s.getV x ||| s.getV y)) ∧
    (∃ t, exec (.andReg x y) s = .next t ∧ WritesOnly s t x (s.getV x &&& s.getV y)) ∧
    (∃ t, exec (.xorReg x y) s = .next t ∧ WritesOnly s t x (s.getV x ^^^ s.getV y))

/-- 42_alu.md R158: the sum mod 256, and VF = 1 if and only if it exceeds 255. -/
def Obligations.AddWritesSumAndCarry : Prop :=
  ∀ (s : State) (x y : Reg), ∃ t, exec (.addReg x y) s = .next t ∧
    WritesResultAndFlag s t x (BitVec.ofNat 8 (((s.getV x).toNat + (s.getV y).toNat) % 256))
      (decide ((s.getV x).toNat + (s.getV y).toNat > 255))

/-- 42_alu.md R159, R161: the difference mod 256, and VF = 1 if and only if the minuend is strictly greater. -/
def Obligations.SubtractsWriteDifferenceAndStrictFlag : Prop :=
  ∀ (s : State) (x y : Reg),
    (∃ t, exec (.sub x y) s = .next t ∧
      WritesResultAndFlag s t x (BitVec.ofNat 8 (((s.getV x).toNat + 256 - (s.getV y).toNat) % 256))
        (decide ((s.getV x).toNat > (s.getV y).toNat))) ∧
    (∃ t, exec (.subn x y) s = .next t ∧
      WritesResultAndFlag s t x (BitVec.ofNat 8 (((s.getV y).toNat + 256 - (s.getV x).toNat) % 256))
        (decide ((s.getV y).toNat > (s.getV x).toNat)))

/-- 42_alu.md R160, R162: `V[Y]` shifted by one into `V[X]`, the bit shifted out in VF. -/
def Obligations.ShiftsWriteShiftedVyAndBitOut : Prop :=
  ∀ (s : State) (x y : Reg),
    (∃ t, exec (.shr x y) s = .next t ∧
      WritesResultAndFlag s t x (BitVec.ofNat 8 ((s.getV y).toNat / 2)) (decide ((s.getV y).toNat % 2 = 1))) ∧
    (∃ t, exec (.shl x y) s = .next t ∧
      WritesResultAndFlag s t x (BitVec.ofNat 8 ((s.getV y).toNat * 2 % 256)) (decide ((s.getV y).toNat ≥ 128)))

/-- 42_alu.md R163: `V[X]` is some draw masked by NN, and the next draw is a fresh one; nothing else changes. The draw is a
free value, so this holds for every draw (00_scope.md R15; log entry 9). -/
def Obligations.RndWritesAMaskedDraw : Prop :=
  ∀ (s : State) (x : Reg) (nn : Byte), ∃ t, exec (.rnd x nn) s = .next t ∧
    t.getV x = Config.draw s.draws &&& nn ∧ (∀ r, r ≠ x → t.getV r = s.getV r) ∧ t.draws = s.draws + 1 ∧
    t = { s with v := t.v, draws := t.draws } ∧ SameMemory s t

/-- 41_control.md R130, R133: the jumps write PC only; JP V0, addr does not reduce the sum to 12 bits. -/
def Obligations.JumpsWriteTheirTarget : Prop :=
  ∀ (s : State) (nnn : Addr),
    (∃ t, exec (.jp nnn) s = .next t ∧ t.pc.toNat = nnn.toNat ∧ t = { s with pc := t.pc } ∧ SameMemory s t) ∧
    (∃ t, exec (.jpV0 nnn) s = .next t ∧ t.pc.toNat = nnn.toNat + (s.getV 0).toNat ∧ t = { s with pc := t.pc } ∧
      SameMemory s t)

/-- 41_control.md R131: CALL pushes PC and jumps; with a finite STACK_LIMIT reached it raises StackOverflow(PC). -/
def Obligations.CallPushesThenJumps : Prop :=
  ∀ (s : State) (nnn : Addr),
    (s.options.stackLimit ≠ some s.stack.length → ∃ t, exec (.call nnn) s = .next t ∧
      t.stack = s.pc :: s.stack ∧ t.pc.toNat = nnn.toNat ∧ t = { s with pc := t.pc, stack := t.stack } ∧
      SameMemory s t) ∧
    (s.options.stackLimit = some s.stack.length → ∃ t, exec (.call nnn) s = .next t ∧
      EntersFatal s t (.stackOverflow s.pc) (s.pc - 2))

/-- 41_control.md R132: RET pops the top of the stack into PC; with an empty stack it raises StackUnderflow(a). -/
def Obligations.RetPopsIntoPc : Prop :=
  (∀ (s : State) (a : Word) (rest : List Word), s.stack = a :: rest →
    exec .ret s = .next { s with pc := a, stack := rest }) ∧
  (∀ s : State, s.stack = [] → ∃ t, exec .ret s = .next t ∧ EntersFatal s t (.stackUnderflow (s.pc - 2)) (s.pc - 2))

/-- 41_control.md R132: "N nested calls followed by N returns restore the original program counter; an (N+1)-th return
fails with stack underflow", the original program counter being the address after the outermost CALL
(95_test_vectors.md T6): from any state with an unbounded stack, for any number of calls to any targets. Every CALL and RET
is advanced over as in a tick (40_cycle.md R112), so the whole state comes back with PC after the outermost CALL (with no
call at all, as it was), and one more return from an empty stack is the underflow at that PC. -/
def Obligations.NestedCallsReturn : Prop :=
  ∀ (s back : State) (targets : List Addr), s.mode = .normal → s.options.stackLimit = none →
    back = (if targets = [] then s else s.advancePc) →
    ∃ t, callAll targets s = .next t ∧ t.stack.length = s.stack.length + targets.length ∧
      retTimes targets.length t = .next back ∧
      (s.stack = [] → ∃ u, retTimes (targets.length + 1) t = .next u ∧
        EntersFatal back u (.stackUnderflow back.pc) back.pc)

/-- 41_control.md R134 to R137, R140: a taken skip adds 2 to PC, one that is not taken changes nothing. -/
def Obligations.RegisterSkipsAddTwo : Prop :=
  ∀ (s : State) (x y : Reg) (nn : Byte),
    exec (.seByte x nn) s = .next { s with pc := if s.getV x = nn then s.pc + 2 else s.pc } ∧
    exec (.sneByte x nn) s = .next { s with pc := if s.getV x ≠ nn then s.pc + 2 else s.pc } ∧
    exec (.seReg x y) s = .next { s with pc := if s.getV x = s.getV y then s.pc + 2 else s.pc } ∧
    exec (.sneReg x y) s = .next { s with pc := if s.getV x ≠ s.getV y then s.pc + 2 else s.pc }

/-- 45_input_timers.md R220, R221: SKP skips where `V[X]`, taken whole, is a pressed key, SKNP where it is not. -/
def Obligations.KeySkipsTestTheWholeRegister : Prop :=
  ∀ (s : State) (x : Reg),
    (KeyPressed s (s.getV x) →
      exec (.skp x) s = .next { s with pc := s.pc + 2 } ∧ exec (.sknp x) s = .next s) ∧
    (¬ KeyPressed s (s.getV x) →
      exec (.skp x) s = .next s ∧ exec (.sknp x) s = .next { s with pc := s.pc + 2 })

/-- 45_input_timers.md R222: with exactly one key pressed its value is captured; otherwise PC goes back to the
instruction and nothing else changes. -/
def Obligations.WaitForKeyTakesExactlyOneKey : Prop :=
  ∀ (s : State) (x : Reg),
    (∀ k : Fin 16, OnlyKeyPressed s k → ∃ t, exec (.ldVxK x) s = .next t ∧ WritesOnly s t x (BitVec.ofNat 8 k.val)) ∧
    ((¬ ∃ k : Fin 16, OnlyKeyPressed s k) → exec (.ldVxK x) s = .next { s with pc := s.pc - 2 })

/-- 45_input_timers.md R223, R224: the delay timer is read into `V[X]` and written from it. -/
def Obligations.DelayTimerMoves : Prop :=
  ∀ (s : State) (x : Reg),
    (∃ t, exec (.ldVxDt x) s = .next t ∧ WritesOnly s t x s.dt) ∧
    exec (.ldDtVx x) s = .next { s with dt := s.getV x }

/-- 45_input_timers.md R225: ST takes `V[X]`; the tone command is emitted exactly on a transition between zero and
nonzero, and tone_on says whether ST is nonzero; nothing else changes. -/
def Obligations.SoundTimerEmitsOnTransitions : Prop :=
  ∀ (s : State) (x : Reg), ∃ t, exec (.ldStVx x) s = .next t ∧ t.st = s.getV x ∧ t.toneOn = decide (s.getV x ≠ 0) ∧
    (s.st = 0 → s.getV x ≠ 0 → t.toneCommands = s.toneCommands ++ [.start]) ∧
    (s.st ≠ 0 → s.getV x = 0 → t.toneCommands = s.toneCommands ++ [.stop]) ∧
    ((s.st = 0 ↔ s.getV x = 0) → t.toneCommands = s.toneCommands) ∧
    t = { s with st := t.st, toneOn := t.toneOn, toneCommands := t.toneCommands } ∧ SameMemory s t

/-- 43_index_memory.md R180, R182: I takes NNN, or FONT_BASE + 5 * `V[X]` with `V[X]` whole; nothing else changes. -/
def Obligations.IndexLoads : Prop :=
  ∀ (s : State) (x : Reg) (nnn : Addr),
    (∃ t, exec (.ldI nnn) s = .next t ∧ t.i.toNat = nnn.toNat ∧ t = { s with i := t.i } ∧ SameMemory s t) ∧
    (∃ t, exec (.ldF x) s = .next t ∧ t.i.toNat = 0x050 + 5 * (s.getV x).toNat ∧ t = { s with i := t.i } ∧
      SameMemory s t)

/-- 43_index_memory.md R181: I + `V[X]` mod 2^16 with VF unchanged; with INDEX_WRAP = fault a sum above 0xFFFF raises the
error instead and leaves I. -/
def Obligations.AddIndexWrapsOrRaises : Prop :=
  ∀ (s : State) (x : Reg),
    (s.options.indexWrap = .wrap16 ∨ s.i.toNat + (s.getV x).toNat ≤ 0xFFFF →
      ∃ t, exec (.addI x) s = .next t ∧ t.i.toNat = (s.i.toNat + (s.getV x).toNat) % 65536 ∧
        t = { s with i := t.i } ∧ SameMemory s t) ∧
    (s.options.indexWrap = .fault → 0xFFFF < s.i.toNat + (s.getV x).toNat →
      ∃ t, exec (.addI x) s = .next t ∧
        EntersFatal s t (.outOfBoundsMemoryAccess (s.i.toNat + (s.getV x).toNat)) (s.pc - 2))

/-- 43_index_memory.md R183: the decimal digits at I, I + 1, I + 2, hundreds first; every other byte and everything else
is unchanged; past the end of memory nothing is written and the error names I + 2. -/
def Obligations.BcdStoresThreeDigits : Prop :=
  ∀ (s : State) (x : Reg), MemoryCanonical s →
    (s.indexAddr + 2 < 4096 → ∃ t, exec (.ldB x) s = .next t ∧ t = { s with mem := t.mem } ∧
      (t.mem.read s.indexAddr).toNat = (s.getV x).toNat / 100 ∧
      (t.mem.read (s.indexAddr + 1)).toNat = (s.getV x).toNat / 10 % 10 ∧
      (t.mem.read (s.indexAddr + 2)).toNat = (s.getV x).toNat % 10 ∧
      ∀ a, (a < s.indexAddr ∨ s.indexAddr + 3 ≤ a) → t.mem.read a = s.mem.read a) ∧
    (4096 ≤ s.indexAddr + 2 → ∃ t, exec (.ldB x) s = .next t ∧
      EntersFatal s t (.outOfBoundsMemoryAccess (s.indexAddr + 2)) (s.pc - 2))

/-- 43_index_memory.md R184: V0 .. `V[X]` at I .. I + X; every other byte is unchanged; I is unchanged, or I + X + 1 under
LOAD_STORE_INCREMENTS_I; past the end of memory nothing is written and the error names I + X. -/
def Obligations.DumpStoresRegisters : Prop :=
  ∀ (s : State) (x : Reg), MemoryCanonical s →
    (s.indexAddr + x.val < 4096 → ∃ t, exec (.ldMemVx x) s = .next t ∧ t = { s with mem := t.mem, i := t.i } ∧
      (∀ r : Reg, r.val ≤ x.val → t.mem.read (s.indexAddr + r.val) = s.getV r) ∧
      (∀ a, (a < s.indexAddr ∨ s.indexAddr + x.val + 1 ≤ a) → t.mem.read a = s.mem.read a) ∧
      t.i.toNat = if s.options.loadStoreIncrementsI then s.indexAddr + x.val + 1 else s.indexAddr) ∧
    (4096 ≤ s.indexAddr + x.val → ∃ t, exec (.ldMemVx x) s = .next t ∧
      EntersFatal s t (.outOfBoundsMemoryAccess (s.indexAddr + x.val)) (s.pc - 2))

/-- 43_index_memory.md R185: V0 .. `V[X]` take the bytes at I .. I + X; the registers after X, memory and everything else
are unchanged; I as for the dump; past the end of memory nothing is loaded and the error names I + X. -/
def Obligations.LoadReadsRegisters : Prop :=
  ∀ (s : State) (x : Reg),
    (s.indexAddr + x.val < 4096 → ∃ t, exec (.ldVxMem x) s = .next t ∧ t = { s with v := t.v, i := t.i } ∧
      (∀ r : Reg, r.val ≤ x.val → t.getV r = s.mem.read (s.indexAddr + r.val)) ∧
      (∀ r : Reg, x.val < r.val → t.getV r = s.getV r) ∧ SameMemory s t ∧
      t.i.toNat = if s.options.loadStoreIncrementsI then s.indexAddr + x.val + 1 else s.indexAddr) ∧
    (4096 ≤ s.indexAddr + x.val → ∃ t, exec (.ldVxMem x) s = .next t ∧
      EntersFatal s t (.outOfBoundsMemoryAccess (s.indexAddr + x.val)) (s.pc - 2))

/-- 20_memory.md R64: the bytes stored by LD B, Vx and by LD [I], Vx are the bytes the next fetch reads, wherever it
stands: over two stored bytes, over one and a neighbour, or beside them. -/
def Obligations.StoredBytesAreFetched : Prop :=
  ∀ (s : State) (x : Reg), MemoryCanonical s → s.pc.toNat < 0xFFF →
    (s.indexAddr + 2 < 4096 → ∃ t, exec (.ldB x) s = .next t ∧ t.pc = s.pc ∧
      t.fetch = .ok (wordOfBytes (byteAfterBcd s x s.pc.toNat) (byteAfterBcd s x (s.pc.toNat + 1)))) ∧
    (s.indexAddr + x.val < 4096 → ∃ t, exec (.ldMemVx x) s = .next t ∧ t.pc = s.pc ∧
      t.fetch = .ok (wordOfBytes (byteAfterDump s x s.pc.toNat) (byteAfterDump s x (s.pc.toNat + 1))))

/-- Dump then load: whatever the registers hold in between, as long as I and memory are those the dump left (and I is
the dump's own address), LD Vx, [I] gives V0 .. `V[X]` back (95_test_vectors.md 2.5, "dump then load"). -/
def Obligations.LoadAfterDumpRestoresRegisters : Prop :=
  ∀ (s t u w : State) (x : Reg), MemoryCanonical s → s.indexAddr + x.val < 4096 →
    exec (.ldMemVx x) s = .next t → u.mem = t.mem → u.i = s.i → exec (.ldVxMem x) u = .next w →
    ∀ r : Reg, r.val ≤ x.val → w.getV r = s.getV r

/-- 44_display.md R200: CLS turns every cell off, requests a redraw and changes nothing else. -/
def Obligations.ClsClearsEveryCell : Prop :=
  ∀ s : State, ∃ t, exec .cls s = .next t ∧ (∀ x y, t.disp.cell x y = false) ∧ t.redrawRequest = true ∧
    t = { s with disp := t.disp, redrawRequest := t.redrawRequest } ∧ SameMemory s t

/-- 44_display.md R202: every cell is toggled exactly where the sprite, clipped at the right and bottom edges, has a set
bit over it; VF is 1 if and only if a cell that was on is toggled; a redraw is requested and nothing else changes. N = 0
never fails; a sprite past the end of memory changes nothing and the error names I + N - 1. -/
def Obligations.DrawTogglesExactlyTheSpriteBits : Prop :=
  ∀ (s : State) (x y : Reg) (n : Nat),
    (n = 0 ∨ s.i.toNat + n ≤ 4096 → ∃ t, exec (.drw x y n) s = .next t ∧
      (∀ px py, px < 64 → py < 32 → t.disp.cell px py =
        (s.disp.cell px py ^^ spriteBit s ((s.getV x).toNat % 64) ((s.getV y).toNat % 32) n px py)) ∧
      (t.getV 15 = 1 ∨ t.getV 15 = 0) ∧
      (t.getV 15 = 1 ↔ ∃ px py, px < 64 ∧ py < 32 ∧ s.disp.cell px py = true ∧
        spriteBit s ((s.getV x).toNat % 64) ((s.getV y).toNat % 32) n px py = true) ∧
      (∀ r, r ≠ 15 → t.getV r = s.getV r) ∧ t.redrawRequest = true ∧
      t = { s with v := t.v, disp := t.disp, redrawRequest := t.redrawRequest } ∧ SameMemory s t) ∧
    (0 < n → 4096 < s.i.toNat + n → ∃ t, exec (.drw x y n) s = .next t ∧
      EntersFatal s t (.outOfBoundsMemoryAccess (s.i.toNat + n - 1)) (s.pc - 2))

/-- 44_display.md R202: drawing the same sprite twice at the same place restores the display; where no visible cell under a
sprite bit was on before, the second draw sets VF = 1 if and only if the sprite has a set bit in the visible area (log
entry 19: the rule's corner case says so without that premise, which its pseudocode does not bear out). -/
def Obligations.DrawingTwiceRestoresTheDisplay : Prop :=
  ∀ (s t u : State) (x y : Reg) (n : Nat), n = 0 ∨ s.i.toNat + n ≤ 4096 →
    exec (.drw x y n) s = .next t → t.getV x = s.getV x → t.getV y = s.getV y → exec (.drw x y n) t = .next u →
    u.disp = s.disp ∧
    ((∀ px py, px < 64 → py < 32 →
        spriteBit s ((s.getV x).toNat % 64) ((s.getV y).toNat % 32) n px py = true → s.disp.cell px py = false) →
      (u.getV 15 = 1 ↔ ∃ px py, px < 64 ∧ py < 32 ∧
        spriteBit s ((s.getV x).toNat % 64) ((s.getV y).toNat % 32) n px py = true))

/-! ## The host's calls -/

/-- 40_cycle.md R120, R123: what each call of the host does between frames and what it leaves alone: set_keys writes the
key set only, run_frame and tick leave it, and a tick outside a frame leaves tick_count and redraw. During a frame every
call is refused (log entries 14 and 17). -/
def Obligations.HostCallsActBetweenFramesOnly : Prop :=
  ∀ s : State, s.mode = .normal →
    (s.frameLeft ≠ 0 → ∀ c, hostCall c s = .refused .hostCallDuringFrame) ∧
    (s.frameLeft = 0 →
      (∀ keys, hostCall (.setKeys keys) s = .next { s with keys := keys }) ∧
      (∃ t, hostCall .runFrame s = .next t ∧ runFrame s = .next t ∧ t.keys = s.keys ∧ t.frameLeft = 0 ∧
        t.ticksPerFrame = s.ticksPerFrame ∧ t.timerInterval = s.timerInterval ∧ t.options = s.options) ∧
      (∃ t, hostCall .tick s = .next t ∧ tick s = .next t ∧ t.keys = s.keys ∧ t.tickCount = s.tickCount ∧
        t.redraw = s.redraw ∧ t.frameLeft = 0 ∧ t.ticksPerFrame = s.ticksPerFrame ∧
        t.timerInterval = s.timerInterval ∧ t.options = s.options))
end

