-- ==== Sys2Proof/Laws/Decode.lean ====
section
/-! SUPPORT. Words and fields as numbers: what the encoder's formats are, what each field of a word is, and that each
field of a format is what was put there. -/

namespace Sys2Proof

/-! ## Fields of any word -/

theorem Word.opClass_toNat (w : Word) : (Word.opClass w).toNat = w.toNat / 4096 := by
  have := w.isLt
  simp only [Word.opClass, BitVec.extractLsb'_toNat, Nat.shiftRight_eq_div_pow]
  omega

theorem Word.fieldX_val (w : Word) : (Word.fieldX w).val = w.toNat / 256 % 16 := by
  change (w.extractLsb' 8 4).toNat = _
  simp only [BitVec.extractLsb'_toNat, Nat.shiftRight_eq_div_pow]

theorem Word.fieldY_val (w : Word) : (Word.fieldY w).val = w.toNat / 16 % 16 := by
  change (w.extractLsb' 4 4).toNat = _
  simp only [BitVec.extractLsb'_toNat, Nat.shiftRight_eq_div_pow]

theorem Word.fieldN_toNat (w : Word) : (Word.fieldN w).toNat = w.toNat % 16 := by
  simp [Word.fieldN]

theorem Word.fieldNN_toNat (w : Word) : (Word.fieldNN w).toNat = w.toNat % 256 := by
  simp [Word.fieldNN]

theorem Word.fieldNNN_toNat (w : Word) : (Word.fieldNNN w).toNat = w.toNat % 4096 := by
  simp [Word.fieldNNN]

/-- The sixteen values of a nibble, to take a decoder's class apart. -/
theorem nibble_cases (c : BitVec 4) :
    c = 0#4 ∨ c = 1#4 ∨ c = 2#4 ∨ c = 3#4 ∨ c = 4#4 ∨ c = 5#4 ∨ c = 6#4 ∨ c = 7#4 ∨ c = 8#4 ∨ c = 9#4 ∨ c = 10#4 ∨
      c = 11#4 ∨ c = 12#4 ∨ c = 13#4 ∨ c = 14#4 ∨ c = 15#4 := by
  revert c; decide

/-! ## The formats as numbers -/

theorem toNat_append_add {m n : Nat} (a : BitVec m) (b : BitVec n) : (a ++ b).toNat = a.toNat * 2 ^ n + b.toNat := by
  rw [BitVec.toNat_append, ← Nat.shiftLeft_add_eq_or_of_lt b.isLt, Nat.shiftLeft_eq]

theorem regField_toNat (r : Reg) : (regField r).toNat = r.val := rfl

theorem wordOfBytes_toNat (hi lo : Byte) : (wordOfBytes hi lo).toNat = hi.toNat * 256 + lo.toNat :=
  toNat_append_add hi lo

theorem formatNNN_toNat (c : BitVec 4) (nnn : Addr) : (formatNNN c nnn).toNat = c.toNat * 4096 + nnn.toNat :=
  toNat_append_add c nnn

theorem formatXNN_toNat (c : BitVec 4) (x : Reg) (nn : Byte) :
    (formatXNN c x nn).toNat = c.toNat * 4096 + x.val * 256 + nn.toNat := by
  have h : (formatXNN c x nn).toNat = (c ++ regField x).toNat * 2 ^ 8 + nn.toNat := toNat_append_add _ nn
  rw [h, toNat_append_add, regField_toNat]
  omega

theorem formatXYN_toNat (c : BitVec 4) (x y : Reg) (n : BitVec 4) :
    (formatXYN c x y n).toNat = c.toNat * 4096 + x.val * 256 + y.val * 16 + n.toNat := by
  have h : (formatXYN c x y n).toNat = (c ++ regField x ++ regField y).toNat * 2 ^ 4 + n.toNat := toNat_append_add _ n
  rw [h, toNat_append_add, toNat_append_add, regField_toNat, regField_toNat]
  omega

/-! ## Each field of a format -/

@[simp] theorem opClass_formatNNN (c : BitVec 4) (nnn : Addr) : Word.opClass (formatNNN c nnn) = c := by
  have := nnn.isLt
  apply BitVec.eq_of_toNat_eq
  rw [Word.opClass_toNat, formatNNN_toNat]; omega

@[simp] theorem fieldNNN_formatNNN (c : BitVec 4) (nnn : Addr) : Word.fieldNNN (formatNNN c nnn) = nnn := by
  have := nnn.isLt
  apply BitVec.eq_of_toNat_eq
  rw [Word.fieldNNN_toNat, formatNNN_toNat]; omega

@[simp] theorem opClass_formatXNN (c : BitVec 4) (x : Reg) (nn : Byte) : Word.opClass (formatXNN c x nn) = c := by
  have := nn.isLt; have := x.isLt
  apply BitVec.eq_of_toNat_eq
  rw [Word.opClass_toNat, formatXNN_toNat]; omega

@[simp] theorem fieldX_formatXNN (c : BitVec 4) (x : Reg) (nn : Byte) : Word.fieldX (formatXNN c x nn) = x := by
  have := nn.isLt; have := x.isLt
  apply Fin.ext
  rw [Word.fieldX_val, formatXNN_toNat]; omega

@[simp] theorem fieldNN_formatXNN (c : BitVec 4) (x : Reg) (nn : Byte) : Word.fieldNN (formatXNN c x nn) = nn := by
  have := nn.isLt
  apply BitVec.eq_of_toNat_eq
  rw [Word.fieldNN_toNat, formatXNN_toNat]; omega

@[simp] theorem opClass_formatXYN (c : BitVec 4) (x y : Reg) (n : BitVec 4) : Word.opClass (formatXYN c x y n) = c := by
  have := n.isLt; have := x.isLt; have := y.isLt
  apply BitVec.eq_of_toNat_eq
  rw [Word.opClass_toNat, formatXYN_toNat]; omega

@[simp] theorem fieldX_formatXYN (c : BitVec 4) (x y : Reg) (n : BitVec 4) : Word.fieldX (formatXYN c x y n) = x := by
  have := n.isLt; have := x.isLt; have := y.isLt
  apply Fin.ext
  rw [Word.fieldX_val, formatXYN_toNat]; omega

@[simp] theorem fieldY_formatXYN (c : BitVec 4) (x y : Reg) (n : BitVec 4) : Word.fieldY (formatXYN c x y n) = y := by
  have := n.isLt; have := y.isLt
  apply Fin.ext
  rw [Word.fieldY_val, formatXYN_toNat]; omega

@[simp] theorem fieldN_formatXYN (c : BitVec 4) (x y : Reg) (n : BitVec 4) : Word.fieldN (formatXYN c x y n) = n := by
  have := n.isLt
  apply BitVec.eq_of_toNat_eq
  rw [Word.fieldN_toNat, formatXYN_toNat]; omega

/-! ## A word is the format of its own fields -/

theorem formatNNN_fields (w : Word) : formatNNN (Word.opClass w) (Word.fieldNNN w) = w := by
  apply BitVec.eq_of_toNat_eq
  rw [formatNNN_toNat, Word.opClass_toNat, Word.fieldNNN_toNat]; omega

theorem formatXNN_fields (w : Word) : formatXNN (Word.opClass w) (Word.fieldX w) (Word.fieldNN w) = w := by
  apply BitVec.eq_of_toNat_eq
  rw [formatXNN_toNat, Word.opClass_toNat, Word.fieldX_val, Word.fieldNN_toNat]; omega

theorem formatXYN_fields (w : Word) :
    formatXYN (Word.opClass w) (Word.fieldX w) (Word.fieldY w) (Word.fieldN w) = w := by
  apply BitVec.eq_of_toNat_eq
  rw [formatXYN_toNat, Word.opClass_toNat, Word.fieldX_val, Word.fieldY_val, Word.fieldN_toNat]; omega

/-! ## Bytes and table words -/

@[simp] theorem wordOfBytes_bytesOfWord (w : Word) : wordOfBytes (w.extractLsb' 8 8) (w.extractLsb' 0 8) = w := by
  have := w.isLt
  apply BitVec.eq_of_toNat_eq
  rw [wordOfBytes_toNat, BitVec.extractLsb'_toNat, BitVec.extractLsb'_toNat, Nat.shiftRight_eq_div_pow,
    Nat.shiftRight_eq_div_pow]
  omega

@[simp] theorem length_bytesOfWord (w : Word) : (bytesOfWord w).length = 2 := rfl

theorem decodeBytes_bytesOfWord (w : Word) (rest : List Byte) :
    decodeBytes (bytesOfWord w ++ rest) =
      match decode w with
      | .ok i => .ok (i, rest)
      | .error e => .error e := by
  cases h : decode w <;> simp [bytesOfWord, decodeBytes, h]

theorem tableWord_sixteen (w : Nat) : tableWord 16 w = BitVec.ofNat 16 w := by
  apply BitVec.eq_of_toNat_eq
  simp [tableWord]

theorem decodeTableWord_eq_some {w : Nat} {i : Instr} :
    decodeTableWord 16 w = some i ↔ decode (BitVec.ofNat 16 w) = .ok i := by
  have h := decodeBytes_bytesOfWord (tableWord 16 w) []
  rw [List.append_nil] at h
  rw [decodeTableWord, h, tableWord_sixteen]
  cases decode (BitVec.ofNat 16 w) <;> simp

/-- The word a decoding fails with is its own. -/
theorem decode_error {w : Word} {e : DecodeError} (h : decode w = .error e) : e = .undecodable w := by
  have ite {c : Prop} [Decidable c] {a b : Except DecodeError Instr} (ha : a = .error e → e = .undecodable w)
      (hb : b = .error e → e = .undecodable w) : (if c then a else b) = .error e → e = .undecodable w := by
    split
    · exact ha
    · exact hb
  have ok (i : Instr) : (.ok i : Except DecodeError Instr) = .error e → e = .undecodable w := nofun
  have error : (.error (.undecodable w) : Except DecodeError Instr) = .error e → e = .undecodable w := by
    rintro ⟨⟩
    rfl
  revert h
  simp only [decode, decodeClass0, decodeClass5, decodeClass8, decodeClass9, decodeClassE, decodeClassF]
  repeat' first | exact ok _ | exact error | refine ite ?_ ?_

theorem decodeTableWord_eq_none {w : Nat} :
    decodeTableWord 16 w = none ↔ decode (BitVec.ofNat 16 w) = .error (.undecodable (BitVec.ofNat 16 w)) := by
  have h : ∀ i, _ ↔ _ := fun i => decodeTableWord_eq_some (w := w) (i := i)
  cases hd : decode (BitVec.ofNat 16 w) with
  | ok i => simp [(h i).mpr hd]
  | error e =>
    rw [decode_error hd, Option.eq_none_iff_forall_ne_some]
    refine iff_of_true (fun i hi => ?_) rfl
    rw [h i, hd] at hi
    cases hi

end Sys2Proof
end

