-- ==== Sys2Proof/Laws/Memory.lean ====
section
/-! SUPPORT. Memory: read after write, the canonical form, and the checked accesses MemRead and MemWrite. -/

namespace Sys2Proof.Machine

/-! ## One byte -/

/-- Below the first address of a canonical memory every byte is as after construction. -/
theorem Memory.read_of_lt_lo {lo : Nat} {m : Memory} (h : Memory.wfFrom lo m = true) {a : Nat} (ha : a < lo) :
    Memory.read m a = Memory.resetByte a := by
  induction m generalizing lo with
  | nil => rfl
  | cons c m ih =>
    obtain ⟨b, u⟩ := c
    simp only [Memory.wfFrom, Bool.and_eq_true, decide_eq_true_eq] at h
    obtain ⟨⟨⟨hlo, -⟩, -⟩, hm⟩ := h
    have hne : a ≠ b := by omega
    simp only [Memory.read, hne, if_false]
    exact ih hm (by omega)

theorem Memory.read_consCell (a : Nat) (u : Byte) (m : Memory) (hm : Memory.read m a = Memory.resetByte a) (b : Nat) :
    Memory.read (Memory.consCell a u m) b = if b = a then u else Memory.read m b := by
  unfold Memory.consCell
  split
  · split <;> simp_all
  · simp [Memory.read]

/-- READ AFTER WRITE: the byte written, and every other byte as before. -/
theorem Memory.read_write {lo : Nat} {m : Memory} (h : Memory.wfFrom lo m = true) (a : Nat) (u : Byte) (b : Nat) :
    Memory.read (Memory.write m a u) b = if b = a then u else Memory.read m b := by
  induction m generalizing lo with
  | nil => exact Memory.read_consCell a u [] rfl b
  | cons c m ih =>
    obtain ⟨c, w⟩ := c
    simp only [Memory.wfFrom, Bool.and_eq_true, decide_eq_true_eq] at h
    obtain ⟨⟨⟨hlo, hmax⟩, hne⟩, hm⟩ := h
    unfold Memory.write
    split
    · refine Memory.read_consCell a u _ ?_ b
      have : a ≠ c := by omega
      simp only [Memory.read, this, if_false]
      exact Memory.read_of_lt_lo hm (by omega)
    · split
      · subst_vars
        rw [Memory.read_consCell _ u _ (Memory.read_of_lt_lo hm (by omega))]
        simp only [Memory.read]
        split <;> simp_all
      · simp only [Memory.read]
        rw [ih hm]
        split <;> split <;> simp_all

/-! ## The canonical form -/

theorem Memory.wfFrom_mono {lo lo' : Nat} {m : Memory} (h : Memory.wfFrom lo m = true) (hle : lo' ≤ lo) :
    Memory.wfFrom lo' m = true := by
  cases m with
  | nil => rfl
  | cons c m =>
    simp only [Memory.wfFrom, Bool.and_eq_true, decide_eq_true_eq] at h ⊢
    exact ⟨⟨⟨by omega, h.1.1.2⟩, h.1.2⟩, h.2⟩

theorem Memory.wfFrom_consCell {a : Nat} {u : Byte} {m : Memory} {lo : Nat} (hlo : lo ≤ a) (ha : a < Config.memSize)
    (h : Memory.wfFrom (a + 1) m = true) : Memory.wfFrom lo (Memory.consCell a u m) = true := by
  unfold Memory.consCell
  split
  · exact Memory.wfFrom_mono h (by omega)
  · simp_all [Memory.wfFrom]

theorem Memory.wfFrom_write {lo a : Nat} {u : Byte} {m : Memory} (h : Memory.wfFrom lo m = true) (hlo : lo ≤ a)
    (ha : a < Config.memSize) : Memory.wfFrom lo (Memory.write m a u) = true := by
  induction m generalizing lo with
  | nil => exact Memory.wfFrom_consCell hlo ha rfl
  | cons c m ih =>
    obtain ⟨c, w⟩ := c
    have h' := h
    simp only [Memory.wfFrom, Bool.and_eq_true, decide_eq_true_eq] at h'
    obtain ⟨⟨⟨hc, hmax⟩, hne⟩, hm⟩ := h'
    unfold Memory.write
    split
    · refine Memory.wfFrom_consCell hlo ha ?_
      simp only [Memory.wfFrom, Bool.and_eq_true, decide_eq_true_eq]
      exact ⟨⟨⟨by omega, hmax⟩, hne⟩, hm⟩
    · split
      · subst_vars; exact Memory.wfFrom_consCell hlo ha hm
      · simp only [Memory.wfFrom, Bool.and_eq_true, decide_eq_true_eq]
        exact ⟨⟨⟨hc, hmax⟩, hne⟩, ih hm (by omega)⟩

/-- Every store inside memory keeps the canonical form. -/
theorem Memory.wf_write {a : Nat} {u : Byte} {m : Memory} (h : m.wf = true) (ha : a < Config.memSize) :
    Memory.wf (Memory.write m a u) = true := Memory.wfFrom_write h (Nat.zero_le a) ha

theorem Memory.wf_writeBytes {bytes : List Byte} {a : Nat} {m : Memory} (h : m.wf = true)
    (ha : a + bytes.length ≤ Config.memSize) : Memory.wf (Memory.writeBytes m a bytes) = true := by
  induction bytes generalizing a m with
  | nil => exact h
  | cons u us ih =>
    simp only [List.length_cons] at ha
    exact ih (Memory.wf_write h (by omega)) (by omega)

theorem Memory.wf_nil : Memory.wf [] = true := rfl

/-- The canonical form makes equal memories equal lists. -/
theorem Memory.eq_of_read_eq {lo : Nat} {m m' : Memory} (h : Memory.wfFrom lo m = true)
    (h' : Memory.wfFrom lo m' = true) (heq : ∀ a, Memory.read m a = Memory.read m' a) : m = m' := by
  induction m generalizing lo m' with
  | nil =>
    cases m' with
    | nil => rfl
    | cons c m' =>
      simp only [Memory.wfFrom, Bool.and_eq_true, decide_eq_true_eq] at h'
      have := heq c.1
      simp only [Memory.read, if_true] at this
      exact absurd this.symm h'.1.2
  | cons c m ih =>
    obtain ⟨b, u⟩ := c
    have hf := h
    simp only [Memory.wfFrom, Bool.and_eq_true, decide_eq_true_eq] at h
    cases m' with
    | nil =>
      have := heq b
      simp only [Memory.read, if_true] at this
      exact absurd this h.1.2
    | cons c' m' =>
      obtain ⟨b', u'⟩ := c'
      simp only [Memory.wfFrom, Bool.and_eq_true, decide_eq_true_eq] at h'
      have hbb : b = b' := by
        rcases Nat.lt_trichotomy b b' with hlt | heq' | hgt
        · have h2 := heq b
          rw [Memory.read, if_pos rfl, Memory.read, if_neg (by omega)] at h2
          rw [Memory.read_of_lt_lo h'.2 (by omega)] at h2
          exact absurd h2 h.1.2
        · exact heq'
        · have h2 := heq b'
          rw [Memory.read, if_neg (by omega), Memory.read, if_pos rfl] at h2
          rw [Memory.read_of_lt_lo h.2 (by omega)] at h2
          exact absurd h2.symm h'.1.2
      subst hbb
      have huu : u = u' := by simpa [Memory.read] using heq b
      subst huu
      congr 1
      refine ih h.2 h'.2 (fun a => ?_)
      by_cases hab : a = b
      · subst hab
        rw [Memory.read_of_lt_lo h.2 (by omega), Memory.read_of_lt_lo h'.2 (by omega)]
      · simpa [Memory.read, hab] using heq a

/-! ## Several bytes -/

@[simp] theorem Memory.length_readBytes (m : Memory) (a n : Nat) : (Memory.readBytes m a n).length = n := by
  induction n generalizing a with
  | zero => rfl
  | succ n ih => simp [Memory.readBytes, ih]

theorem Memory.getElem_readBytes (m : Memory) {a n k : Nat} (h : k < n) :
    (Memory.readBytes m a n)[k]'(by simpa using h) = Memory.read m (a + k) := by
  induction n generalizing a k with
  | zero => omega
  | succ n ih =>
    cases k with
    | zero => rfl
    | succ k =>
      simp only [Memory.readBytes, List.getElem_cons_succ]
      rw [ih (by omega)]
      congr 1; omega

/-- The bytes stored, and every other byte as before. -/
theorem Memory.read_writeBytes {bytes : List Byte} {a : Nat} {m : Memory} (h : m.wf = true)
    (ha : a + bytes.length ≤ Config.memSize) (b : Nat) :
    Memory.read (Memory.writeBytes m a bytes) b =
      if hb : a ≤ b ∧ b < a + bytes.length then bytes[b - a]'(by omega) else Memory.read m b := by
  induction bytes generalizing a m with
  | nil =>
    have : ¬ (a ≤ b ∧ b < a + ([] : List Byte).length) := by simp
    rw [dif_neg this]; rfl
  | cons u us ih =>
    simp only [List.length_cons] at ha
    simp only [Memory.writeBytes]
    rw [ih (Memory.wf_write h (by omega)) (by omega), Memory.read_write h]
    simp only [List.length_cons]
    by_cases h1 : a + 1 ≤ b ∧ b < a + 1 + us.length
    · rw [dif_pos h1, dif_pos (by omega)]
      rw [List.getElem_cons, dif_neg (by omega)]
      congr 1
    · rw [dif_neg h1]
      by_cases h2 : b = a
      · subst h2; simp
      · rw [if_neg h2, dif_neg (by omega)]

/-! ## The checked accesses (00_scope.md R13) -/

theorem boundsError_eq_none {a n : Nat} : boundsError a n = none ↔ n = 0 ∨ a + n ≤ 4096 := by
  have hsize : Config.memSize = 4096 := rfl
  unfold boundsError
  by_cases h : 0 < n ∧ Config.memSize < a + n
  · rw [if_pos h]; simp; omega
  · rw [if_neg h]; simp; omega

theorem boundsError_of_out {a n : Nat} (h0 : 0 < n) (h : 4096 < a + n) :
    boundsError a n = some (.outOfBoundsMemoryAccess (a + n - 1)) := by
  simp [boundsError, Config.memSize, h0, h]

theorem memRead_in {s : State} {a n : Nat} (h : n = 0 ∨ a + n ≤ 4096) : s.memRead a n = .ok (s.mem.readBytes a n) := by
  simp [State.memRead, boundsError_eq_none.mpr h]

theorem memRead_out {s : State} {a n : Nat} (h0 : 0 < n) (h : 4096 < a + n) :
    s.memRead a n = .error (.outOfBoundsMemoryAccess (a + n - 1)) := by
  simp [State.memRead, boundsError_of_out h0 h]

theorem memWrite_in {s : State} {a : Nat} {bytes : List Byte} (h : bytes.length = 0 ∨ a + bytes.length ≤ 4096) :
    s.memWrite a bytes = .ok { s with mem := s.mem.writeBytes a bytes } := by
  simp [State.memWrite, boundsError_eq_none.mpr h]

theorem memWrite_out {s : State} {a : Nat} {bytes : List Byte} (h0 : 0 < bytes.length) (h : 4096 < a + bytes.length) :
    s.memWrite a bytes = .error (.outOfBoundsMemoryAccess (a + bytes.length - 1)) := by
  simp [State.memWrite, boundsError_of_out h0 h]

/-- Everything MemWrite can do: the check fails, or the bytes are stored and nothing else changes. -/
theorem memWrite_cases (s : State) (a : Nat) (bytes : List Byte) :
    (∃ e, s.memWrite a bytes = .error e) ∨
    ((bytes.length = 0 ∨ a + bytes.length ≤ 4096) ∧
      s.memWrite a bytes = .ok { s with mem := s.mem.writeBytes a bytes }) := by
  by_cases h : bytes.length = 0 ∨ a + bytes.length ≤ 4096
  · exact .inr ⟨h, memWrite_in h⟩
  · exact .inl ⟨_, memWrite_out (by omega) (by omega)⟩

/-- Memory after construction with no program is canonical. -/
theorem reset_mem_wf : State.reset.mem.wf = true := rfl

end Sys2Proof.Machine
end

