-- ==== Sys2Proof/Laws/State.lean ====
section
/-! SUPPORT. One lemma per field of State and per update, so that no proof unfolds a record update. -/

namespace Sys2Proof.Machine

variable (s : State)

/-! ## setV -/

@[simp] theorem State.setV_v (r : Reg) (u : Byte) : (s.setV r u).v = s.v.set r u r.isLt := rfl
@[simp] theorem State.setV_i (r : Reg) (u : Byte) : (s.setV r u).i = s.i := rfl
@[simp] theorem State.setV_pc (r : Reg) (u : Byte) : (s.setV r u).pc = s.pc := rfl
@[simp] theorem State.setV_stack (r : Reg) (u : Byte) : (s.setV r u).stack = s.stack := rfl
@[simp] theorem State.setV_dt (r : Reg) (u : Byte) : (s.setV r u).dt = s.dt := rfl
@[simp] theorem State.setV_st (r : Reg) (u : Byte) : (s.setV r u).st = s.st := rfl
@[simp] theorem State.setV_disp (r : Reg) (u : Byte) : (s.setV r u).disp = s.disp := rfl
@[simp] theorem State.setV_keys (r : Reg) (u : Byte) : (s.setV r u).keys = s.keys := rfl
@[simp] theorem State.setV_redraw (r : Reg) (u : Byte) : (s.setV r u).redraw = s.redraw := rfl
@[simp] theorem State.setV_tickCount (r : Reg) (u : Byte) : (s.setV r u).tickCount = s.tickCount := rfl
@[simp] theorem State.setV_toneOn (r : Reg) (u : Byte) : (s.setV r u).toneOn = s.toneOn := rfl
@[simp] theorem State.setV_mode (r : Reg) (u : Byte) : (s.setV r u).mode = s.mode := rfl
@[simp] theorem State.setV_mem (r : Reg) (u : Byte) : (s.setV r u).mem = s.mem := rfl
@[simp] theorem State.setV_toneCommands (r : Reg) (u : Byte) : (s.setV r u).toneCommands = s.toneCommands := rfl
@[simp] theorem State.setV_ticksPerFrame (r : Reg) (u : Byte) : (s.setV r u).ticksPerFrame = s.ticksPerFrame := rfl
@[simp] theorem State.setV_timerInterval (r : Reg) (u : Byte) : (s.setV r u).timerInterval = s.timerInterval := rfl
@[simp] theorem State.setV_options (r : Reg) (u : Byte) : (s.setV r u).options = s.options := rfl
@[simp] theorem State.setV_redrawRequest (r : Reg) (u : Byte) : (s.setV r u).redrawRequest = s.redrawRequest := rfl
@[simp] theorem State.setV_frameLeft (r : Reg) (u : Byte) : (s.setV r u).frameLeft = s.frameLeft := rfl
@[simp] theorem State.setV_draws (r : Reg) (u : Byte) : (s.setV r u).draws = s.draws := rfl

/-! ## setFlag -/

@[simp] theorem State.setFlag_v (f : Bool) : (s.setFlag f).v = s.v.set Reg.vf (if f then 1 else 0) Reg.vf.isLt := rfl
@[simp] theorem State.setFlag_i (f : Bool) : (s.setFlag f).i = s.i := rfl
@[simp] theorem State.setFlag_pc (f : Bool) : (s.setFlag f).pc = s.pc := rfl
@[simp] theorem State.setFlag_stack (f : Bool) : (s.setFlag f).stack = s.stack := rfl
@[simp] theorem State.setFlag_dt (f : Bool) : (s.setFlag f).dt = s.dt := rfl
@[simp] theorem State.setFlag_st (f : Bool) : (s.setFlag f).st = s.st := rfl
@[simp] theorem State.setFlag_disp (f : Bool) : (s.setFlag f).disp = s.disp := rfl
@[simp] theorem State.setFlag_keys (f : Bool) : (s.setFlag f).keys = s.keys := rfl
@[simp] theorem State.setFlag_redraw (f : Bool) : (s.setFlag f).redraw = s.redraw := rfl
@[simp] theorem State.setFlag_tickCount (f : Bool) : (s.setFlag f).tickCount = s.tickCount := rfl
@[simp] theorem State.setFlag_toneOn (f : Bool) : (s.setFlag f).toneOn = s.toneOn := rfl
@[simp] theorem State.setFlag_mode (f : Bool) : (s.setFlag f).mode = s.mode := rfl
@[simp] theorem State.setFlag_mem (f : Bool) : (s.setFlag f).mem = s.mem := rfl
@[simp] theorem State.setFlag_toneCommands (f : Bool) : (s.setFlag f).toneCommands = s.toneCommands := rfl
@[simp] theorem State.setFlag_ticksPerFrame (f : Bool) : (s.setFlag f).ticksPerFrame = s.ticksPerFrame := rfl
@[simp] theorem State.setFlag_timerInterval (f : Bool) : (s.setFlag f).timerInterval = s.timerInterval := rfl
@[simp] theorem State.setFlag_options (f : Bool) : (s.setFlag f).options = s.options := rfl
@[simp] theorem State.setFlag_redrawRequest (f : Bool) : (s.setFlag f).redrawRequest = s.redrawRequest := rfl
@[simp] theorem State.setFlag_frameLeft (f : Bool) : (s.setFlag f).frameLeft = s.frameLeft := rfl
@[simp] theorem State.setFlag_draws (f : Bool) : (s.setFlag f).draws = s.draws := rfl

/-! ## setResultFlag -/

@[simp] theorem State.setResultFlag_v (x : Reg) (u : Byte) (f : Bool) : (s.setResultFlag x u f).v = (s.v.set x u x.isLt).set Reg.vf (if f then 1 else 0) Reg.vf.isLt := rfl
@[simp] theorem State.setResultFlag_i (x : Reg) (u : Byte) (f : Bool) : (s.setResultFlag x u f).i = s.i := rfl
@[simp] theorem State.setResultFlag_pc (x : Reg) (u : Byte) (f : Bool) : (s.setResultFlag x u f).pc = s.pc := rfl
@[simp] theorem State.setResultFlag_stack (x : Reg) (u : Byte) (f : Bool) : (s.setResultFlag x u f).stack = s.stack := rfl
@[simp] theorem State.setResultFlag_dt (x : Reg) (u : Byte) (f : Bool) : (s.setResultFlag x u f).dt = s.dt := rfl
@[simp] theorem State.setResultFlag_st (x : Reg) (u : Byte) (f : Bool) : (s.setResultFlag x u f).st = s.st := rfl
@[simp] theorem State.setResultFlag_disp (x : Reg) (u : Byte) (f : Bool) : (s.setResultFlag x u f).disp = s.disp := rfl
@[simp] theorem State.setResultFlag_keys (x : Reg) (u : Byte) (f : Bool) : (s.setResultFlag x u f).keys = s.keys := rfl
@[simp] theorem State.setResultFlag_redraw (x : Reg) (u : Byte) (f : Bool) : (s.setResultFlag x u f).redraw = s.redraw := rfl
@[simp] theorem State.setResultFlag_tickCount (x : Reg) (u : Byte) (f : Bool) : (s.setResultFlag x u f).tickCount = s.tickCount := rfl
@[simp] theorem State.setResultFlag_toneOn (x : Reg) (u : Byte) (f : Bool) : (s.setResultFlag x u f).toneOn = s.toneOn := rfl
@[simp] theorem State.setResultFlag_mode (x : Reg) (u : Byte) (f : Bool) : (s.setResultFlag x u f).mode = s.mode := rfl
@[simp] theorem State.setResultFlag_mem (x : Reg) (u : Byte) (f : Bool) : (s.setResultFlag x u f).mem = s.mem := rfl
@[simp] theorem State.setResultFlag_toneCommands (x : Reg) (u : Byte) (f : Bool) : (s.setResultFlag x u f).toneCommands = s.toneCommands := rfl
@[simp] theorem State.setResultFlag_ticksPerFrame (x : Reg) (u : Byte) (f : Bool) : (s.setResultFlag x u f).ticksPerFrame = s.ticksPerFrame := rfl
@[simp] theorem State.setResultFlag_timerInterval (x : Reg) (u : Byte) (f : Bool) : (s.setResultFlag x u f).timerInterval = s.timerInterval := rfl
@[simp] theorem State.setResultFlag_options (x : Reg) (u : Byte) (f : Bool) : (s.setResultFlag x u f).options = s.options := rfl
@[simp] theorem State.setResultFlag_redrawRequest (x : Reg) (u : Byte) (f : Bool) : (s.setResultFlag x u f).redrawRequest = s.redrawRequest := rfl
@[simp] theorem State.setResultFlag_frameLeft (x : Reg) (u : Byte) (f : Bool) : (s.setResultFlag x u f).frameLeft = s.frameLeft := rfl
@[simp] theorem State.setResultFlag_draws (x : Reg) (u : Byte) (f : Bool) : (s.setResultFlag x u f).draws = s.draws := rfl

/-! ## raise -/

@[simp] theorem State.raise_v (e : FatalError) (a : Word) : (s.raise e a).v = s.v := rfl
@[simp] theorem State.raise_i (e : FatalError) (a : Word) : (s.raise e a).i = s.i := rfl
@[simp] theorem State.raise_pc (e : FatalError) (a : Word) : (s.raise e a).pc = if Config.fatalPcAdvanced s.draws then a + 2 else a := rfl
@[simp] theorem State.raise_stack (e : FatalError) (a : Word) : (s.raise e a).stack = s.stack := rfl
@[simp] theorem State.raise_dt (e : FatalError) (a : Word) : (s.raise e a).dt = s.dt := rfl
@[simp] theorem State.raise_st (e : FatalError) (a : Word) : (s.raise e a).st = s.st := rfl
@[simp] theorem State.raise_disp (e : FatalError) (a : Word) : (s.raise e a).disp = s.disp := rfl
@[simp] theorem State.raise_keys (e : FatalError) (a : Word) : (s.raise e a).keys = s.keys := rfl
@[simp] theorem State.raise_redraw (e : FatalError) (a : Word) : (s.raise e a).redraw = s.redraw := rfl
@[simp] theorem State.raise_tickCount (e : FatalError) (a : Word) : (s.raise e a).tickCount = s.tickCount := rfl
@[simp] theorem State.raise_toneOn (e : FatalError) (a : Word) : (s.raise e a).toneOn = s.toneOn := rfl
@[simp] theorem State.raise_mode (e : FatalError) (a : Word) : (s.raise e a).mode = .fatal e := rfl
@[simp] theorem State.raise_mem (e : FatalError) (a : Word) : (s.raise e a).mem = s.mem := rfl
@[simp] theorem State.raise_toneCommands (e : FatalError) (a : Word) : (s.raise e a).toneCommands = s.toneCommands := rfl
@[simp] theorem State.raise_ticksPerFrame (e : FatalError) (a : Word) : (s.raise e a).ticksPerFrame = s.ticksPerFrame := rfl
@[simp] theorem State.raise_timerInterval (e : FatalError) (a : Word) : (s.raise e a).timerInterval = s.timerInterval := rfl
@[simp] theorem State.raise_options (e : FatalError) (a : Word) : (s.raise e a).options = s.options := rfl
@[simp] theorem State.raise_redrawRequest (e : FatalError) (a : Word) : (s.raise e a).redrawRequest = s.redrawRequest := rfl
@[simp] theorem State.raise_frameLeft (e : FatalError) (a : Word) : (s.raise e a).frameLeft = s.frameLeft := rfl
@[simp] theorem State.raise_draws (e : FatalError) (a : Word) : (s.raise e a).draws = s.draws := rfl

/-! ## setST -/

@[simp] theorem State.setST_v (u : Byte) : (s.setST u).v = s.v := rfl
@[simp] theorem State.setST_i (u : Byte) : (s.setST u).i = s.i := rfl
@[simp] theorem State.setST_pc (u : Byte) : (s.setST u).pc = s.pc := rfl
@[simp] theorem State.setST_stack (u : Byte) : (s.setST u).stack = s.stack := rfl
@[simp] theorem State.setST_dt (u : Byte) : (s.setST u).dt = s.dt := rfl
@[simp] theorem State.setST_st (u : Byte) : (s.setST u).st = u := rfl
@[simp] theorem State.setST_disp (u : Byte) : (s.setST u).disp = s.disp := rfl
@[simp] theorem State.setST_keys (u : Byte) : (s.setST u).keys = s.keys := rfl
@[simp] theorem State.setST_redraw (u : Byte) : (s.setST u).redraw = s.redraw := rfl
@[simp] theorem State.setST_tickCount (u : Byte) : (s.setST u).tickCount = s.tickCount := rfl
@[simp] theorem State.setST_toneOn (u : Byte) : (s.setST u).toneOn = decide (u ≠ 0) := rfl
@[simp] theorem State.setST_mode (u : Byte) : (s.setST u).mode = s.mode := rfl
@[simp] theorem State.setST_mem (u : Byte) : (s.setST u).mem = s.mem := rfl
@[simp] theorem State.setST_toneCommands (u : Byte) : (s.setST u).toneCommands = s.toneCommands ++ toneTransition s.st u := rfl
@[simp] theorem State.setST_ticksPerFrame (u : Byte) : (s.setST u).ticksPerFrame = s.ticksPerFrame := rfl
@[simp] theorem State.setST_timerInterval (u : Byte) : (s.setST u).timerInterval = s.timerInterval := rfl
@[simp] theorem State.setST_options (u : Byte) : (s.setST u).options = s.options := rfl
@[simp] theorem State.setST_redrawRequest (u : Byte) : (s.setST u).redrawRequest = s.redrawRequest := rfl
@[simp] theorem State.setST_frameLeft (u : Byte) : (s.setST u).frameLeft = s.frameLeft := rfl
@[simp] theorem State.setST_draws (u : Byte) : (s.setST u).draws = s.draws := rfl

/-! ## timerUpdate -/

@[simp] theorem State.timerUpdate_v : (s.timerUpdate).v = s.v := rfl
@[simp] theorem State.timerUpdate_i : (s.timerUpdate).i = s.i := rfl
@[simp] theorem State.timerUpdate_pc : (s.timerUpdate).pc = s.pc := rfl
@[simp] theorem State.timerUpdate_stack : (s.timerUpdate).stack = s.stack := rfl
@[simp] theorem State.timerUpdate_dt : (s.timerUpdate).dt = countDown s.dt := rfl
@[simp] theorem State.timerUpdate_st : (s.timerUpdate).st = countDown s.st := rfl
@[simp] theorem State.timerUpdate_disp : (s.timerUpdate).disp = s.disp := rfl
@[simp] theorem State.timerUpdate_keys : (s.timerUpdate).keys = s.keys := rfl
@[simp] theorem State.timerUpdate_redraw : (s.timerUpdate).redraw = s.redraw := rfl
@[simp] theorem State.timerUpdate_tickCount : (s.timerUpdate).tickCount = s.tickCount := rfl
@[simp] theorem State.timerUpdate_toneOn : (s.timerUpdate).toneOn = decide (countDown s.st ≠ 0) := rfl
@[simp] theorem State.timerUpdate_mode : (s.timerUpdate).mode = s.mode := rfl
@[simp] theorem State.timerUpdate_mem : (s.timerUpdate).mem = s.mem := rfl
@[simp] theorem State.timerUpdate_toneCommands : (s.timerUpdate).toneCommands = s.toneCommands ++ toneTransition s.st (countDown s.st) := rfl
@[simp] theorem State.timerUpdate_ticksPerFrame : (s.timerUpdate).ticksPerFrame = s.ticksPerFrame := rfl
@[simp] theorem State.timerUpdate_timerInterval : (s.timerUpdate).timerInterval = s.timerInterval := rfl
@[simp] theorem State.timerUpdate_options : (s.timerUpdate).options = s.options := rfl
@[simp] theorem State.timerUpdate_redrawRequest : (s.timerUpdate).redrawRequest = s.redrawRequest := rfl
@[simp] theorem State.timerUpdate_frameLeft : (s.timerUpdate).frameLeft = s.frameLeft := rfl
@[simp] theorem State.timerUpdate_draws : (s.timerUpdate).draws = s.draws := rfl

/-! ## clearRequest -/

@[simp] theorem State.clearRequest_v : (s.clearRequest).v = s.v := rfl
@[simp] theorem State.clearRequest_i : (s.clearRequest).i = s.i := rfl
@[simp] theorem State.clearRequest_pc : (s.clearRequest).pc = s.pc := rfl
@[simp] theorem State.clearRequest_stack : (s.clearRequest).stack = s.stack := rfl
@[simp] theorem State.clearRequest_dt : (s.clearRequest).dt = s.dt := rfl
@[simp] theorem State.clearRequest_st : (s.clearRequest).st = s.st := rfl
@[simp] theorem State.clearRequest_disp : (s.clearRequest).disp = s.disp := rfl
@[simp] theorem State.clearRequest_keys : (s.clearRequest).keys = s.keys := rfl
@[simp] theorem State.clearRequest_redraw : (s.clearRequest).redraw = s.redraw := rfl
@[simp] theorem State.clearRequest_tickCount : (s.clearRequest).tickCount = s.tickCount := rfl
@[simp] theorem State.clearRequest_toneOn : (s.clearRequest).toneOn = s.toneOn := rfl
@[simp] theorem State.clearRequest_mode : (s.clearRequest).mode = s.mode := rfl
@[simp] theorem State.clearRequest_mem : (s.clearRequest).mem = s.mem := rfl
@[simp] theorem State.clearRequest_toneCommands : (s.clearRequest).toneCommands = s.toneCommands := rfl
@[simp] theorem State.clearRequest_ticksPerFrame : (s.clearRequest).ticksPerFrame = s.ticksPerFrame := rfl
@[simp] theorem State.clearRequest_timerInterval : (s.clearRequest).timerInterval = s.timerInterval := rfl
@[simp] theorem State.clearRequest_options : (s.clearRequest).options = s.options := rfl
@[simp] theorem State.clearRequest_redrawRequest : (s.clearRequest).redrawRequest = false := rfl
@[simp] theorem State.clearRequest_frameLeft : (s.clearRequest).frameLeft = s.frameLeft := rfl
@[simp] theorem State.clearRequest_draws : (s.clearRequest).draws = s.draws := rfl

/-! ## advancePc -/

@[simp] theorem State.advancePc_v : (s.advancePc).v = s.v := rfl
@[simp] theorem State.advancePc_i : (s.advancePc).i = s.i := rfl
@[simp] theorem State.advancePc_pc : (s.advancePc).pc = s.pc + 2 := rfl
@[simp] theorem State.advancePc_stack : (s.advancePc).stack = s.stack := rfl
@[simp] theorem State.advancePc_dt : (s.advancePc).dt = s.dt := rfl
@[simp] theorem State.advancePc_st : (s.advancePc).st = s.st := rfl
@[simp] theorem State.advancePc_disp : (s.advancePc).disp = s.disp := rfl
@[simp] theorem State.advancePc_keys : (s.advancePc).keys = s.keys := rfl
@[simp] theorem State.advancePc_redraw : (s.advancePc).redraw = s.redraw := rfl
@[simp] theorem State.advancePc_tickCount : (s.advancePc).tickCount = s.tickCount := rfl
@[simp] theorem State.advancePc_toneOn : (s.advancePc).toneOn = s.toneOn := rfl
@[simp] theorem State.advancePc_mode : (s.advancePc).mode = s.mode := rfl
@[simp] theorem State.advancePc_mem : (s.advancePc).mem = s.mem := rfl
@[simp] theorem State.advancePc_toneCommands : (s.advancePc).toneCommands = s.toneCommands := rfl
@[simp] theorem State.advancePc_ticksPerFrame : (s.advancePc).ticksPerFrame = s.ticksPerFrame := rfl
@[simp] theorem State.advancePc_timerInterval : (s.advancePc).timerInterval = s.timerInterval := rfl
@[simp] theorem State.advancePc_options : (s.advancePc).options = s.options := rfl
@[simp] theorem State.advancePc_redrawRequest : (s.advancePc).redrawRequest = s.redrawRequest := rfl
@[simp] theorem State.advancePc_frameLeft : (s.advancePc).frameLeft = s.frameLeft := rfl
@[simp] theorem State.advancePc_draws : (s.advancePc).draws = s.draws := rfl

/-! ## closeTick -/

@[simp] theorem State.closeTick_v : (s.closeTick).v = s.v := rfl
@[simp] theorem State.closeTick_i : (s.closeTick).i = s.i := rfl
@[simp] theorem State.closeTick_pc : (s.closeTick).pc = s.pc := rfl
@[simp] theorem State.closeTick_stack : (s.closeTick).stack = s.stack := rfl
@[simp] theorem State.closeTick_dt : (s.closeTick).dt = s.dt := rfl
@[simp] theorem State.closeTick_st : (s.closeTick).st = s.st := rfl
@[simp] theorem State.closeTick_disp : (s.closeTick).disp = s.disp := rfl
@[simp] theorem State.closeTick_keys : (s.closeTick).keys = s.keys := rfl
@[simp] theorem State.closeTick_redraw : (s.closeTick).redraw = s.redraw := rfl
@[simp] theorem State.closeTick_tickCount : (s.closeTick).tickCount = s.tickCount := rfl
@[simp] theorem State.closeTick_toneOn : (s.closeTick).toneOn = s.toneOn := rfl
@[simp] theorem State.closeTick_mode : (s.closeTick).mode = s.mode := rfl
@[simp] theorem State.closeTick_mem : (s.closeTick).mem = s.mem := rfl
@[simp] theorem State.closeTick_toneCommands : (s.closeTick).toneCommands = s.toneCommands := rfl
@[simp] theorem State.closeTick_ticksPerFrame : (s.closeTick).ticksPerFrame = s.ticksPerFrame := rfl
@[simp] theorem State.closeTick_timerInterval : (s.closeTick).timerInterval = s.timerInterval := rfl
@[simp] theorem State.closeTick_options : (s.closeTick).options = s.options := rfl
@[simp] theorem State.closeTick_redrawRequest : (s.closeTick).redrawRequest = s.redrawRequest := rfl
@[simp] theorem State.closeTick_draws : (s.closeTick).draws = s.draws := rfl

/-! ## setKeys -/

@[simp] theorem State.setKeys_v (keys : KeySet) : (s.setKeys keys).v = s.v := rfl
@[simp] theorem State.setKeys_i (keys : KeySet) : (s.setKeys keys).i = s.i := rfl
@[simp] theorem State.setKeys_pc (keys : KeySet) : (s.setKeys keys).pc = s.pc := rfl
@[simp] theorem State.setKeys_stack (keys : KeySet) : (s.setKeys keys).stack = s.stack := rfl
@[simp] theorem State.setKeys_dt (keys : KeySet) : (s.setKeys keys).dt = s.dt := rfl
@[simp] theorem State.setKeys_st (keys : KeySet) : (s.setKeys keys).st = s.st := rfl
@[simp] theorem State.setKeys_disp (keys : KeySet) : (s.setKeys keys).disp = s.disp := rfl
@[simp] theorem State.setKeys_keys (keys : KeySet) : (s.setKeys keys).keys = keys := rfl
@[simp] theorem State.setKeys_redraw (keys : KeySet) : (s.setKeys keys).redraw = s.redraw := rfl
@[simp] theorem State.setKeys_tickCount (keys : KeySet) : (s.setKeys keys).tickCount = s.tickCount := rfl
@[simp] theorem State.setKeys_toneOn (keys : KeySet) : (s.setKeys keys).toneOn = s.toneOn := rfl
@[simp] theorem State.setKeys_mode (keys : KeySet) : (s.setKeys keys).mode = s.mode := rfl
@[simp] theorem State.setKeys_mem (keys : KeySet) : (s.setKeys keys).mem = s.mem := rfl
@[simp] theorem State.setKeys_toneCommands (keys : KeySet) : (s.setKeys keys).toneCommands = s.toneCommands := rfl
@[simp] theorem State.setKeys_ticksPerFrame (keys : KeySet) : (s.setKeys keys).ticksPerFrame = s.ticksPerFrame := rfl
@[simp] theorem State.setKeys_timerInterval (keys : KeySet) : (s.setKeys keys).timerInterval = s.timerInterval := rfl
@[simp] theorem State.setKeys_options (keys : KeySet) : (s.setKeys keys).options = s.options := rfl
@[simp] theorem State.setKeys_redrawRequest (keys : KeySet) : (s.setKeys keys).redrawRequest = s.redrawRequest := rfl
@[simp] theorem State.setKeys_frameLeft (keys : KeySet) : (s.setKeys keys).frameLeft = s.frameLeft := rfl
@[simp] theorem State.setKeys_draws (keys : KeySet) : (s.setKeys keys).draws = s.draws := rfl

/-! ## drawSprite -/

@[simp] theorem State.drawSprite_i (x y : Reg) (rows : List Byte) : (s.drawSprite x y rows).i = s.i := rfl
@[simp] theorem State.drawSprite_pc (x y : Reg) (rows : List Byte) : (s.drawSprite x y rows).pc = s.pc := rfl
@[simp] theorem State.drawSprite_stack (x y : Reg) (rows : List Byte) : (s.drawSprite x y rows).stack = s.stack := rfl
@[simp] theorem State.drawSprite_dt (x y : Reg) (rows : List Byte) : (s.drawSprite x y rows).dt = s.dt := rfl
@[simp] theorem State.drawSprite_st (x y : Reg) (rows : List Byte) : (s.drawSprite x y rows).st = s.st := rfl
@[simp] theorem State.drawSprite_keys (x y : Reg) (rows : List Byte) : (s.drawSprite x y rows).keys = s.keys := rfl
@[simp] theorem State.drawSprite_redraw (x y : Reg) (rows : List Byte) : (s.drawSprite x y rows).redraw = s.redraw := rfl
@[simp] theorem State.drawSprite_tickCount (x y : Reg) (rows : List Byte) : (s.drawSprite x y rows).tickCount = s.tickCount := rfl
@[simp] theorem State.drawSprite_toneOn (x y : Reg) (rows : List Byte) : (s.drawSprite x y rows).toneOn = s.toneOn := rfl
@[simp] theorem State.drawSprite_mode (x y : Reg) (rows : List Byte) : (s.drawSprite x y rows).mode = s.mode := rfl
@[simp] theorem State.drawSprite_mem (x y : Reg) (rows : List Byte) : (s.drawSprite x y rows).mem = s.mem := rfl
@[simp] theorem State.drawSprite_toneCommands (x y : Reg) (rows : List Byte) : (s.drawSprite x y rows).toneCommands = s.toneCommands := rfl
@[simp] theorem State.drawSprite_ticksPerFrame (x y : Reg) (rows : List Byte) : (s.drawSprite x y rows).ticksPerFrame = s.ticksPerFrame := rfl
@[simp] theorem State.drawSprite_timerInterval (x y : Reg) (rows : List Byte) : (s.drawSprite x y rows).timerInterval = s.timerInterval := rfl
@[simp] theorem State.drawSprite_options (x y : Reg) (rows : List Byte) : (s.drawSprite x y rows).options = s.options := rfl
@[simp] theorem State.drawSprite_redrawRequest (x y : Reg) (rows : List Byte) : (s.drawSprite x y rows).redrawRequest = true := rfl
@[simp] theorem State.drawSprite_frameLeft (x y : Reg) (rows : List Byte) : (s.drawSprite x y rows).frameLeft = s.frameLeft := rfl
@[simp] theorem State.drawSprite_draws (x y : Reg) (rows : List Byte) : (s.drawSprite x y rows).draws = s.draws := rfl

/-! ## skipIf -/

@[simp] theorem State.skipIf_v (c : Bool) : (s.skipIf c).v = s.v := by cases c <;> rfl
@[simp] theorem State.skipIf_i (c : Bool) : (s.skipIf c).i = s.i := by cases c <;> rfl
@[simp] theorem State.skipIf_stack (c : Bool) : (s.skipIf c).stack = s.stack := by cases c <;> rfl
@[simp] theorem State.skipIf_dt (c : Bool) : (s.skipIf c).dt = s.dt := by cases c <;> rfl
@[simp] theorem State.skipIf_st (c : Bool) : (s.skipIf c).st = s.st := by cases c <;> rfl
@[simp] theorem State.skipIf_disp (c : Bool) : (s.skipIf c).disp = s.disp := by cases c <;> rfl
@[simp] theorem State.skipIf_keys (c : Bool) : (s.skipIf c).keys = s.keys := by cases c <;> rfl
@[simp] theorem State.skipIf_redraw (c : Bool) : (s.skipIf c).redraw = s.redraw := by cases c <;> rfl
@[simp] theorem State.skipIf_tickCount (c : Bool) : (s.skipIf c).tickCount = s.tickCount := by cases c <;> rfl
@[simp] theorem State.skipIf_toneOn (c : Bool) : (s.skipIf c).toneOn = s.toneOn := by cases c <;> rfl
@[simp] theorem State.skipIf_mode (c : Bool) : (s.skipIf c).mode = s.mode := by cases c <;> rfl
@[simp] theorem State.skipIf_mem (c : Bool) : (s.skipIf c).mem = s.mem := by cases c <;> rfl
@[simp] theorem State.skipIf_toneCommands (c : Bool) : (s.skipIf c).toneCommands = s.toneCommands := by cases c <;> rfl
@[simp] theorem State.skipIf_ticksPerFrame (c : Bool) : (s.skipIf c).ticksPerFrame = s.ticksPerFrame := by cases c <;> rfl
@[simp] theorem State.skipIf_timerInterval (c : Bool) : (s.skipIf c).timerInterval = s.timerInterval := by cases c <;> rfl
@[simp] theorem State.skipIf_options (c : Bool) : (s.skipIf c).options = s.options := by cases c <;> rfl
@[simp] theorem State.skipIf_redrawRequest (c : Bool) : (s.skipIf c).redrawRequest = s.redrawRequest := by cases c <;> rfl
@[simp] theorem State.skipIf_frameLeft (c : Bool) : (s.skipIf c).frameLeft = s.frameLeft := by cases c <;> rfl
@[simp] theorem State.skipIf_draws (c : Bool) : (s.skipIf c).draws = s.draws := by cases c <;> rfl

/-! ## advanceI -/

@[simp] theorem State.advanceI_v (x : Reg) : (s.advanceI x).v = s.v := by unfold State.advanceI; split <;> rfl
@[simp] theorem State.advanceI_pc (x : Reg) : (s.advanceI x).pc = s.pc := by unfold State.advanceI; split <;> rfl
@[simp] theorem State.advanceI_stack (x : Reg) : (s.advanceI x).stack = s.stack := by unfold State.advanceI; split <;> rfl
@[simp] theorem State.advanceI_dt (x : Reg) : (s.advanceI x).dt = s.dt := by unfold State.advanceI; split <;> rfl
@[simp] theorem State.advanceI_st (x : Reg) : (s.advanceI x).st = s.st := by unfold State.advanceI; split <;> rfl
@[simp] theorem State.advanceI_disp (x : Reg) : (s.advanceI x).disp = s.disp := by unfold State.advanceI; split <;> rfl
@[simp] theorem State.advanceI_keys (x : Reg) : (s.advanceI x).keys = s.keys := by unfold State.advanceI; split <;> rfl
@[simp] theorem State.advanceI_redraw (x : Reg) : (s.advanceI x).redraw = s.redraw := by unfold State.advanceI; split <;> rfl
@[simp] theorem State.advanceI_tickCount (x : Reg) : (s.advanceI x).tickCount = s.tickCount := by unfold State.advanceI; split <;> rfl
@[simp] theorem State.advanceI_toneOn (x : Reg) : (s.advanceI x).toneOn = s.toneOn := by unfold State.advanceI; split <;> rfl
@[simp] theorem State.advanceI_mode (x : Reg) : (s.advanceI x).mode = s.mode := by unfold State.advanceI; split <;> rfl
@[simp] theorem State.advanceI_mem (x : Reg) : (s.advanceI x).mem = s.mem := by unfold State.advanceI; split <;> rfl
@[simp] theorem State.advanceI_toneCommands (x : Reg) : (s.advanceI x).toneCommands = s.toneCommands := by unfold State.advanceI; split <;> rfl
@[simp] theorem State.advanceI_ticksPerFrame (x : Reg) : (s.advanceI x).ticksPerFrame = s.ticksPerFrame := by unfold State.advanceI; split <;> rfl
@[simp] theorem State.advanceI_timerInterval (x : Reg) : (s.advanceI x).timerInterval = s.timerInterval := by unfold State.advanceI; split <;> rfl
@[simp] theorem State.advanceI_options (x : Reg) : (s.advanceI x).options = s.options := by unfold State.advanceI; split <;> rfl
@[simp] theorem State.advanceI_redrawRequest (x : Reg) : (s.advanceI x).redrawRequest = s.redrawRequest := by unfold State.advanceI; split <;> rfl
@[simp] theorem State.advanceI_frameLeft (x : Reg) : (s.advanceI x).frameLeft = s.frameLeft := by unfold State.advanceI; split <;> rfl
@[simp] theorem State.advanceI_draws (x : Reg) : (s.advanceI x).draws = s.draws := by unfold State.advanceI; split <;> rfl

/-! ## openFrame -/

@[simp] theorem State.openFrame_v : (s.openFrame).v = s.v := by unfold State.openFrame; split <;> rfl
@[simp] theorem State.openFrame_i : (s.openFrame).i = s.i := by unfold State.openFrame; split <;> rfl
@[simp] theorem State.openFrame_pc : (s.openFrame).pc = s.pc := by unfold State.openFrame; split <;> rfl
@[simp] theorem State.openFrame_stack : (s.openFrame).stack = s.stack := by unfold State.openFrame; split <;> rfl
@[simp] theorem State.openFrame_dt : (s.openFrame).dt = s.dt := by unfold State.openFrame; split <;> rfl
@[simp] theorem State.openFrame_st : (s.openFrame).st = s.st := by unfold State.openFrame; split <;> rfl
@[simp] theorem State.openFrame_disp : (s.openFrame).disp = s.disp := by unfold State.openFrame; split <;> rfl
@[simp] theorem State.openFrame_keys : (s.openFrame).keys = s.keys := by unfold State.openFrame; split <;> rfl
@[simp] theorem State.openFrame_tickCount : (s.openFrame).tickCount = s.tickCount := by unfold State.openFrame; split <;> rfl
@[simp] theorem State.openFrame_toneOn : (s.openFrame).toneOn = s.toneOn := by unfold State.openFrame; split <;> rfl
@[simp] theorem State.openFrame_mode : (s.openFrame).mode = s.mode := by unfold State.openFrame; split <;> rfl
@[simp] theorem State.openFrame_mem : (s.openFrame).mem = s.mem := by unfold State.openFrame; split <;> rfl
@[simp] theorem State.openFrame_toneCommands : (s.openFrame).toneCommands = s.toneCommands := by unfold State.openFrame; split <;> rfl
@[simp] theorem State.openFrame_ticksPerFrame : (s.openFrame).ticksPerFrame = s.ticksPerFrame := by unfold State.openFrame; split <;> rfl
@[simp] theorem State.openFrame_timerInterval : (s.openFrame).timerInterval = s.timerInterval := by unfold State.openFrame; split <;> rfl
@[simp] theorem State.openFrame_options : (s.openFrame).options = s.options := by unfold State.openFrame; split <;> rfl
@[simp] theorem State.openFrame_redrawRequest : (s.openFrame).redrawRequest = s.redrawRequest := by unfold State.openFrame; split <;> rfl
@[simp] theorem State.openFrame_draws : (s.openFrame).draws = s.draws := by unfold State.openFrame; split <;> rfl

/-! ## countTick -/

@[simp] theorem State.countTick_v : (s.countTick).v = s.v := by simp only [State.countTick]; split <;> rfl
@[simp] theorem State.countTick_i : (s.countTick).i = s.i := by simp only [State.countTick]; split <;> rfl
@[simp] theorem State.countTick_pc : (s.countTick).pc = s.pc := by simp only [State.countTick]; split <;> rfl
@[simp] theorem State.countTick_stack : (s.countTick).stack = s.stack := by simp only [State.countTick]; split <;> rfl
@[simp] theorem State.countTick_disp : (s.countTick).disp = s.disp := by simp only [State.countTick]; split <;> rfl
@[simp] theorem State.countTick_keys : (s.countTick).keys = s.keys := by simp only [State.countTick]; split <;> rfl
@[simp] theorem State.countTick_mode : (s.countTick).mode = s.mode := by simp only [State.countTick]; split <;> rfl
@[simp] theorem State.countTick_mem : (s.countTick).mem = s.mem := by simp only [State.countTick]; split <;> rfl
@[simp] theorem State.countTick_ticksPerFrame : (s.countTick).ticksPerFrame = s.ticksPerFrame := by simp only [State.countTick]; split <;> rfl
@[simp] theorem State.countTick_timerInterval : (s.countTick).timerInterval = s.timerInterval := by simp only [State.countTick]; split <;> rfl
@[simp] theorem State.countTick_options : (s.countTick).options = s.options := by simp only [State.countTick]; split <;> rfl
@[simp] theorem State.countTick_redrawRequest : (s.countTick).redrawRequest = s.redrawRequest := by simp only [State.countTick]; split <;> rfl
@[simp] theorem State.countTick_frameLeft : (s.countTick).frameLeft = s.frameLeft := by simp only [State.countTick]; split <;> rfl
@[simp] theorem State.countTick_draws : (s.countTick).draws = s.draws := by simp only [State.countTick]; split <;> rfl

@[simp] theorem State.skipIf_pc (c : Bool) : (s.skipIf c).pc = if c then s.pc + 2 else s.pc := by cases c <;> rfl

@[simp] theorem State.countTick_redraw : s.countTick.redraw = (s.redraw || s.redrawRequest) := by
  simp only [State.countTick]; split <;> rfl

end Sys2Proof.Machine
end

