-- ==== Sys2Proof/Laws/Registers.lean ====
section
/-! SUPPORT. The register operations: what a read gives after each write, the flag write, dump and load. -/

namespace Sys2Proof.Machine

@[simp] theorem getV_setV (s : State) (r q : Reg) (u : Byte) : (s.setV r u).getV q = if q = r then u else s.getV q := by
  simp only [State.getV, State.setV, Fin.getElem_fin, Vector.getElem_set]
  by_cases h : q = r
  · simp [h]
  · rw [if_neg (fun hv => h (Fin.ext hv.symm)), if_neg h]

@[simp] theorem getV_setFlag (s : State) (q : Reg) (f : Bool) :
    (s.setFlag f).getV q = if q = 15 then (if f then 1 else 0) else s.getV q := getV_setV s 15 q _

/-- The flag is written last, so it stands in VF even where VF is the destination (42_alu.md R151). -/
@[simp] theorem getV_setResultFlag (s : State) (x q : Reg) (u : Byte) (f : Bool) :
    (s.setResultFlag x u f).getV q = if q = 15 then (if f then 1 else 0) else if q = x then u else s.getV q := by
  simp [State.setResultFlag]

theorem setV_eq (s : State) (r : Reg) (u : Byte) : s.setV r u = { s with v := (s.setV r u).v } := rfl

theorem setFlag_eq (s : State) (f : Bool) : s.setFlag f = { s with v := (s.setFlag f).v } := rfl

theorem setResultFlag_eq (s : State) (x : Reg) (u : Byte) (f : Bool) :
    s.setResultFlag x u f = { s with v := (s.setResultFlag x u f).v } := rfl

/-- A register load changes nothing but V. -/
theorem loadV_eq (s : State) (k : Nat) (bytes : List Byte) : s.loadV k bytes = { s with v := (s.loadV k bytes).v } := by
  induction bytes generalizing s k with
  | nil => rfl
  | cons u us ih =>
    unfold State.loadV
    split
    · next h => rw [ih (s.setV ⟨k, h⟩ u) (k + 1)]; rfl
    · rfl

/-- What a register holds after a load of `bytes` from `V[k]` on. -/
theorem getV_loadV (s : State) (k : Nat) (bytes : List Byte) (q : Reg) (hk : k + bytes.length ≤ 16) :
    (s.loadV k bytes).getV q =
      if h : k ≤ q.val ∧ q.val < k + bytes.length then bytes[q.val - k]'(by omega) else s.getV q := by
  induction bytes generalizing s k with
  | nil =>
    have : ¬ (k ≤ q.val ∧ q.val < k + ([] : List Byte).length) := by simp
    rw [dif_neg this]; rfl
  | cons u us ih =>
    simp only [List.length_cons] at hk
    unfold State.loadV
    rw [dif_pos (by omega : k < 16), ih _ _ (by omega), getV_setV]
    simp only [List.length_cons]
    by_cases h1 : k + 1 ≤ q.val ∧ q.val < k + 1 + us.length
    · rw [dif_pos h1, dif_pos (by omega), List.getElem_cons, dif_neg (by omega)]
      congr 1
    · rw [dif_neg h1]
      by_cases h2 : q.val = k
      · rw [if_pos (Fin.ext h2), dif_pos (by omega)]
        simp [h2]
      · rw [if_neg (fun hq => h2 (congrArg Fin.val hq)), dif_neg (by omega)]

@[simp] theorem length_dumpV (s : State) (x : Reg) : (s.dumpV x).length = x.val + 1 := by
  have := x.isLt
  simp [State.dumpV]

theorem getElem_dumpV (s : State) (x : Reg) {k : Nat} (h : k < (s.dumpV x).length) :
    (s.dumpV x)[k] = s.getV ⟨k, by have := x.isLt; simp at h; omega⟩ := by
  simp [State.dumpV, State.getV]

end Sys2Proof.Machine
end

