-- ==== Sys2Proof/Laws/Ops.lean ====
section
/-! SUPPORT. The shared operations of the meanings: entering the fatal mode, checked accesses, skips, timers, tone, the
display's cells, and the pressed keys. -/

namespace Sys2Proof.Machine

/-! ## Errors -/

/-- Entering the fatal mode changes mode and PC only, and PC is one of the two addresses the spec allows. -/
theorem raise_entersFatal (s : State) (e : FatalError) (a : Word) : EntersFatal s (s.raise e a) e a := by
  refine ⟨rfl, ?_⟩
  simp only [State.raise]
  split
  · exact .inr rfl
  · exact .inl rfl

/-- Everything a checked access can lead to. -/
theorem attempt_cases {α : Type} (s : State) (r : Except FatalError α) (k : α → State) :
    (∃ u, r = .ok u ∧ s.attempt r k = .next (k u)) ∨
    (∃ e, r = .error e ∧ s.attempt r k = .next (s.raise e s.instrAddr)) := by
  cases r with
  | ok u => exact .inl ⟨u, rfl, rfl⟩
  | error e => exact .inr ⟨e, rfl, rfl⟩

@[simp] theorem attempt_ok {α : Type} (s : State) (u : α) (k : α → State) : s.attempt (.ok u) k = .next (k u) := rfl

@[simp] theorem attempt_error {α : Type} (s : State) (e : FatalError) (k : α → State) :
    s.attempt (.error e) k = .next (s.raise e s.instrAddr) := rfl

/-! ## Skips and I -/

theorem skipIf_eq (s : State) (c : Bool) : s.skipIf c = { s with pc := if c then s.pc + 2 else s.pc } := by
  cases c <;> rfl

theorem advanceI_eq (s : State) (x : Reg) :
    s.advanceI x = { s with i := if s.options.loadStoreIncrementsI then s.i + BitVec.ofNat 16 (x.val + 1) else s.i } := by
  unfold State.advanceI
  split <;> rfl

/-! ## Timers and tone -/

theorem countDown_toNat (t : Byte) : (countDown t).toNat = t.toNat - 1 := by
  unfold countDown
  split
  · next h => subst h; rfl
  · next h =>
    have : t.toNat ≠ 0 := fun h0 => h (BitVec.eq_of_toNat_eq (by simpa using h0))
    bv_omega

/-- After the commands emitted so far, the command of a transition leaves the tone as the new ST says. -/
theorem toneAfter_append (cs ds : List ToneCommand) (on : Bool) :
    toneAfter (cs ++ ds) on = (toneAfter cs on).bind (toneAfter ds) := by
  induction cs generalizing on with
  | nil => rfl
  | cons c cs ih => cases c <;> cases on <;> first | rfl | exact ih _

theorem toneAfter_transition (old new : Byte) :
    toneAfter (toneTransition old new) (decide (old ≠ 0)) = some (decide (new ≠ 0)) := by
  unfold toneTransition
  by_cases h1 : old = 0#8 <;> by_cases h2 : new = 0#8 <;> simp [h1, h2, toneAfter]

/-- The timer update's command: the stop where ST goes from 1 to 0 (60_exceptions.md R250). -/
theorem toneTransition_countDown (t : Byte) : toneTransition t (countDown t) = if t.toNat = 1 then [.stop] else [] := by
  have hc := countDown_toNat t
  have zero (u : Byte) : u = 0 ↔ u.toNat = 0 := BitVec.toNat_inj.symm
  unfold toneTransition
  simp only [ne_eq, zero, hc]
  by_cases h1 : t.toNat = 1
  · rw [if_neg (by omega), if_pos (by omega), if_pos h1]
  · rw [if_neg (by omega), if_neg (by omega), if_neg h1]

/-! ## Display cells -/

theorem cell_eq (d : Display) {x y : Nat} (hx : x < 64) (hy : y < 32) : d.cell x y = d[y][x] := by
  simp [Display.cell, hx, hy]

theorem cell_outside (d : Display) {x y : Nat} (h : ¬ (x < 64 ∧ y < 32)) : d.cell x y = false := by
  simp only [Display.cell, dif_neg h]

/-- Toggling a cell of the grid turns that cell and no other. -/
theorem cell_toggle (d : Display) {x y : Nat} (hx : x < 64) (hy : y < 32) (a b : Nat) :
    (d.toggle x y).cell a b = if a = x ∧ b = y then !d.cell x y else d.cell a b := by
  by_cases hab : a < 64 ∧ b < 32
  · obtain ⟨ha, hb⟩ := hab
    rw [cell_eq _ ha hb, cell_eq _ hx hy, cell_eq _ ha hb]
    simp only [Display.toggle, dif_pos (And.intro hx hy), Vector.getElem_set]
    by_cases h1 : y = b
    · subst h1
      simp only [if_true, Vector.getElem_set]
      by_cases h2 : x = a
      · subst h2; simp
      · simp [h2, Ne.symm h2]
    · simp [h1, Ne.symm h1]
  · rw [cell_outside _ hab, cell_outside _ hab, if_neg]
    rintro ⟨rfl, rfl⟩
    exact hab ⟨hx, hy⟩

theorem cell_clear (x y : Nat) : Display.clear.cell x y = false := by
  unfold Display.cell Display.clear
  split <;> simp

/-- Two displays with the same cells are equal. -/
theorem display_ext {d d' : Display} (h : ∀ x y, x < 64 → y < 32 → d.cell x y = d'.cell x y) : d = d' := by
  refine Vector.ext fun y hy => Vector.ext fun x hx => ?_
  have := h x y hx hy
  rwa [cell_eq _ hx hy, cell_eq _ hx hy] at this

/-! ## Keys -/

theorem mem_domain (k : Fin 16) : k ∈ KeySet.domain := by revert k; decide

theorem nodup_domain : KeySet.domain.Nodup := by decide

theorem mem_pressed (keys : KeySet) (k : Fin 16) : k ∈ keys.pressed ↔ keys[k] = true := by
  simp [KeySet.pressed, mem_domain]

theorem nodup_pressed (keys : KeySet) : keys.pressed.Nodup := nodup_domain.filter _

/-- The key list has one element exactly where one key is pressed. -/
theorem pressed_eq_singleton (keys : KeySet) (k : Fin 16) :
    keys.pressed = [k] ↔ ∀ j : Fin 16, keys[j] = true ↔ j = k := by
  constructor
  · intro h j
    rw [← mem_pressed, h, List.mem_singleton]
  · intro h
    have hperm : keys.pressed.Perm [k] :=
      (List.perm_ext_iff_of_nodup (nodup_pressed keys) (List.nodup_singleton k)).mpr fun j => by
        rw [mem_pressed, h, List.mem_singleton]
    exact List.perm_singleton.mp hperm

theorem has_eq_true (keys : KeySet) (u : Byte) : keys.has u = true ↔ ∃ k : Fin 16, k.val = u.toNat ∧ keys[k] = true := by
  unfold KeySet.has
  constructor
  · intro h
    split at h
    · next hu => exact ⟨⟨u.toNat, hu⟩, rfl, h⟩
    · cases h
  · rintro ⟨k, hk, hp⟩
    have hu : u.toNat < 16 := hk ▸ k.isLt
    rw [dif_pos hu]
    simpa [← hk] using hp

end Sys2Proof.Machine
end

