-- ==== Sys2Proof/Laws/Exec.lean ====
section
/-! SUPPORT. The meanings that branch, each said once: everything it can do, and under which condition. The other
meanings are one update and unfold by rfl. After them, every byte after a store, the fetch, and the drawing loops. -/

namespace Sys2Proof.Machine

theorem stackFull_iff (s : State) : s.stackFull = true ↔ s.options.stackLimit = some s.stack.length := by
  unfold State.stackFull
  split
  · next h => simp [h]
  · next n h => simp [h, eq_comm]

/-- CALL: StackOverflow on a full stack, else push and jump. -/
theorem execCall_cases (nnn : Addr) (s : State) :
    (s.options.stackLimit = some s.stack.length ∧
      execCall nnn s = .next (s.raise (.stackOverflow s.pc) s.instrAddr)) ∨
    (s.options.stackLimit ≠ some s.stack.length ∧
      execCall nnn s = .next { s with stack := s.pc :: s.stack, pc := addrOperand nnn }) := by
  unfold execCall
  by_cases h : s.stackFull = true
  · exact .inl ⟨(stackFull_iff s).mp h, by rw [if_pos h]⟩
  · exact .inr ⟨fun h' => h ((stackFull_iff s).mpr h'), by rw [if_neg h]⟩

/-- RET: StackUnderflow on an empty stack, else pop into PC. -/
theorem execRet_cases (s : State) :
    (s.stack = [] ∧ execRet s = .next (s.raise (.stackUnderflow s.instrAddr) s.instrAddr)) ∨
    (∃ a rest, s.stack = a :: rest ∧ execRet s = .next { s with stack := rest, pc := a }) := by
  unfold execRet
  cases s.stack with
  | nil => exact .inl ⟨rfl, rfl⟩
  | cons a rest => exact .inr ⟨a, rest, rfl, rfl⟩

/-- ADD I, Vx: the sum mod 2^16, or with INDEX_WRAP = fault the error where it passes 0xFFFF. -/
theorem execAddI_cases (x : Reg) (s : State) :
    ((s.options.indexWrap = .wrap16 ∨ s.indexAddr + (s.getV x).toNat ≤ 0xFFFF) ∧
      execAddI x s = .next { s with i := s.i + s.zextV x }) ∨
    ((s.options.indexWrap = .fault ∧ 0xFFFF < s.indexAddr + (s.getV x).toNat) ∧
      execAddI x s = .next (s.raise (.outOfBoundsMemoryAccess (s.indexAddr + (s.getV x).toNat)) s.instrAddr)) := by
  unfold execAddI
  cases s.options.indexWrap with
  | wrap16 => exact .inl ⟨.inl rfl, rfl⟩
  | fault =>
    by_cases h : 0xFFFF < s.indexAddr + (s.getV x).toNat
    · exact .inr ⟨⟨rfl, h⟩, by simp only [if_pos h]⟩
    · exact .inl ⟨.inr (by omega), by simp only [if_neg h]⟩

/-- LD B, Vx: the digits stored, or the error before any byte. -/
theorem execLdB_cases (x : Reg) (s : State) :
    (s.indexAddr + 3 ≤ 4096 ∧
      execLdB x s = .next { s with mem := s.mem.writeBytes s.indexAddr (bcdDigits (s.getV x)) }) ∨
    (4096 < s.indexAddr + 3 ∧
      execLdB x s = .next (s.raise (.outOfBoundsMemoryAccess (s.indexAddr + 2)) s.instrAddr)) := by
  unfold execLdB
  by_cases h : s.indexAddr + 3 ≤ 4096
  · exact .inl ⟨h, by rw [memWrite_in (.inr h), attempt_ok]⟩
  · have h' : 4096 < s.indexAddr + (bcdDigits (s.getV x)).length := by change 4096 < s.indexAddr + 3; omega
    exact .inr ⟨by omega, by rw [memWrite_out (by simp [bcdDigits]) h', attempt_error]; rfl⟩

/-- LD [I], Vx: the registers stored and I advanced if so configured, or the error before any byte. -/
theorem execLdMemVx_cases (x : Reg) (s : State) :
    (s.indexAddr + x.val < 4096 ∧
      execLdMemVx x s = .next (State.advanceI { s with mem := s.mem.writeBytes s.indexAddr (s.dumpV x) } x)) ∨
    (4096 ≤ s.indexAddr + x.val ∧
      execLdMemVx x s = .next (s.raise (.outOfBoundsMemoryAccess (s.indexAddr + x.val)) s.instrAddr)) := by
  unfold execLdMemVx
  by_cases h : s.indexAddr + x.val < 4096
  · exact .inl ⟨h, by rw [memWrite_in (.inr (by rw [length_dumpV]; omega)), attempt_ok]⟩
  · refine .inr ⟨by omega, ?_⟩
    rw [memWrite_out (by rw [length_dumpV]; omega) (by rw [length_dumpV]; omega), attempt_error, length_dumpV]
    rfl

/-- LD Vx, [I]: the registers loaded and I advanced if so configured, or the error before any register. -/
theorem execLdVxMem_cases (x : Reg) (s : State) :
    (s.indexAddr + x.val < 4096 ∧
      execLdVxMem x s = .next ((s.loadV 0 (s.mem.readBytes s.indexAddr (x.val + 1))).advanceI x)) ∨
    (4096 ≤ s.indexAddr + x.val ∧
      execLdVxMem x s = .next (s.raise (.outOfBoundsMemoryAccess (s.indexAddr + x.val)) s.instrAddr)) := by
  unfold execLdVxMem
  by_cases h : s.indexAddr + x.val < 4096
  · exact .inl ⟨h, by rw [memRead_in (.inr (by omega)), attempt_ok]⟩
  · exact .inr ⟨by omega, by rw [memRead_out (by omega) (by omega), attempt_error]; rfl⟩

/-- DRW: the sprite drawn, or the error before any pixel. -/
theorem execDrw_cases (x y : Reg) (n : Nat) (s : State) :
    ((n = 0 ∨ s.indexAddr + n ≤ 4096) ∧
      execDrw x y n s = .next (s.drawSprite x y (s.mem.readBytes s.indexAddr n))) ∨
    ((0 < n ∧ 4096 < s.indexAddr + n) ∧
      execDrw x y n s = .next (s.raise (.outOfBoundsMemoryAccess (s.indexAddr + n - 1)) s.instrAddr)) := by
  unfold execDrw
  by_cases h : n = 0 ∨ s.indexAddr + n ≤ 4096
  · exact .inl ⟨h, by rw [memRead_in h, attempt_ok]⟩
  · exact .inr ⟨by omega, by rw [memRead_out (by omega) (by omega), attempt_error]⟩

/-- LD Vx, K: the one pressed key captured, or back to the instruction. -/
theorem execLdVxK_cases (x : Reg) (s : State) :
    (∃ k, s.keys.pressed = [k] ∧ execLdVxK x s = .next (s.setV x (BitVec.ofNat 8 k.val))) ∨
    ((∀ k, s.keys.pressed ≠ [k]) ∧ execLdVxK x s = .next { s with pc := s.pc - 2 }) := by
  unfold execLdVxK
  split
  · next k h => exact .inl ⟨k, h, rfl⟩
  · next h => exact .inr ⟨fun k hk => h k hk, rfl⟩

/-! ## Every byte after a store -/

/-- Every byte after LD B, Vx. -/
theorem read_writeBytes_bcd {s : State} (x : Reg) (hm : MemoryCanonical s) (h : s.indexAddr + 2 < 4096) (a : Nat) :
    (s.mem.writeBytes s.indexAddr (bcdDigits (s.getV x))).read a = byteAfterBcd s x a := by
  have hl : (bcdDigits (s.getV x)).length = 3 := rfl
  rw [Memory.read_writeBytes hm (by change s.indexAddr + 3 ≤ 4096; omega), byteAfterBcd]
  by_cases hb : s.indexAddr ≤ a ∧ a < s.indexAddr + 3
  · rw [dif_pos (by omega)]
    obtain h0 | h0 | h0 : a = s.indexAddr ∨ a = s.indexAddr + 1 ∨ a = s.indexAddr + 2 := by omega
    all_goals subst h0; simp [bcdDigits]
  · rw [dif_neg (by omega), if_neg (by omega), if_neg (by omega), if_neg (by omega)]

/-- Every byte after LD [I], Vx. -/
theorem read_writeBytes_dump {s : State} (x : Reg) (hm : MemoryCanonical s) (h : s.indexAddr + x.val < 4096) (a : Nat) :
    (s.mem.writeBytes s.indexAddr (s.dumpV x)).read a = byteAfterDump s x a := by
  have hl := length_dumpV s x
  rw [Memory.read_writeBytes hm (by rw [hl]; exact h), byteAfterDump]
  by_cases hb : s.indexAddr ≤ a ∧ a ≤ s.indexAddr + x.val
  · rw [dif_pos (by omega), dif_pos hb, getElem_dumpV]
  · rw [dif_neg (by omega), dif_neg hb]

/-! ## The fetch, and going on after an outcome -/

/-- The fetch inside memory. -/
theorem fetch_in {s : State} (h : s.pc.toNat < 0xFFF) : s.fetch = .ok s.wordAtPc := by
  rw [State.fetch, memRead_in (.inr (by omega))]
  rfl

theorem andThen_normal {t : State} (k : State → Result) (h : t.mode = .normal) : Result.andThen (.next t) k = k t := by
  simp only [Result.andThen, h]

theorem andThen_fatal {t : State} {e : FatalError} (k : State → Result) (h : t.mode = .fatal e) :
    Result.andThen (.next t) k = .next t := by
  simp only [Result.andThen, h]

/-! ## Drawing: the loops of 44_display.md R202, one at a time -/

/-- A set bit inside the right edge toggles its cell and collides where the cell was on. -/
theorem drawBit_in {x0 y b : Nat} {row : Byte} {c : Canvas} (hx : x0 + b < 64) (hb : row.getLsbD (7 - b) = true) :
    Canvas.drawBit x0 y row c b =
      { disp := c.disp.toggle (x0 + b) y, collision := c.collision || c.disp.cell (x0 + b) y } := by
  simp only [Canvas.drawBit, if_neg (by omega : ¬ 64 ≤ x0 + b), hb, if_true]

/-- A bit past the right edge, or a zero bit, changes nothing. -/
theorem drawBit_out {x0 y b : Nat} {row : Byte} {c : Canvas} (h : 64 ≤ x0 + b ∨ row.getLsbD (7 - b) = false) :
    Canvas.drawBit x0 y row c b = c := by
  unfold Canvas.drawBit
  by_cases hx : 64 ≤ x0 + b
  · rw [if_pos hx]
  · rw [if_neg hx, if_neg (by simp [h.resolve_left hx])]

end Sys2Proof.Machine
end

