-- ==== Sys2Proof/Laws/PerInstr.lean ====
section
/-! SUPPORT. The family `EncodeMatchesRow`: an instruction's word has the fixed bits of its row of the opcode table
(30_encoding.md R85, R101). -/

namespace Sys2Proof.Laws.EncodeMatchesRow

/-- The word matches the row: its bits under the row's mask are the row's value. -/
def Statement (i : Instr) : Prop := encode i &&& i.row.mask = i.row.value

/-! ## The fixed bits of each format: the operand fields are masked away, and the rest is as in the all-zero operand -/

theorem formatNNN_and_class (c : BitVec 4) (nnn : Addr) : formatNNN c nnn &&& 0xF000#16 = formatNNN c 0 := by
  have h : (c ++ nnn) &&& (0xF#4 ++ 0x000#12) = (c &&& 0xF#4) ++ (nnn &&& 0x000#12) := BitVec.and_append
  refine h.trans ?_
  rw [BitVec.and_zero, show c &&& 0xF#4 = c from BitVec.and_allOnes]
  rfl

theorem formatXNN_and_class (c : BitVec 4) (x : Reg) (nn : Byte) :
    formatXNN c x nn &&& 0xF000#16 = formatXNN c 0 0 := by
  have h : (c ++ regField x ++ nn) &&& (0xF#4 ++ 0x0#4 ++ 0x00#8) =
      (c &&& 0xF#4) ++ (regField x &&& 0x0#4) ++ (nn &&& 0x00#8) := by
    rw [BitVec.and_append, BitVec.and_append]
  refine h.trans ?_
  rw [BitVec.and_zero, BitVec.and_zero, show c &&& 0xF#4 = c from BitVec.and_allOnes]
  rfl

theorem formatXNN_and_classNN (c : BitVec 4) (x : Reg) (nn : Byte) :
    formatXNN c x nn &&& 0xF0FF#16 = formatXNN c 0 nn := by
  have h : (c ++ regField x ++ nn) &&& (0xF#4 ++ 0x0#4 ++ 0xFF#8) =
      (c &&& 0xF#4) ++ (regField x &&& 0x0#4) ++ (nn &&& 0xFF#8) := by
    rw [BitVec.and_append, BitVec.and_append]
  refine h.trans ?_
  rw [BitVec.and_zero, show c &&& 0xF#4 = c from BitVec.and_allOnes, show nn &&& 0xFF#8 = nn from BitVec.and_allOnes]
  rfl

theorem formatXYN_and_class (c : BitVec 4) (x y : Reg) (n : BitVec 4) :
    formatXYN c x y n &&& 0xF000#16 = formatXYN c 0 0 0 := by
  have h : (c ++ regField x ++ regField y ++ n) &&& (0xF#4 ++ 0x0#4 ++ 0x0#4 ++ 0x0#4) =
      (c &&& 0xF#4) ++ (regField x &&& 0x0#4) ++ (regField y &&& 0x0#4) ++ (n &&& 0x0#4) := by
    rw [BitVec.and_append, BitVec.and_append, BitVec.and_append]
  refine h.trans ?_
  rw [BitVec.and_zero, BitVec.and_zero, BitVec.and_zero, show c &&& 0xF#4 = c from BitVec.and_allOnes]
  rfl

theorem formatXYN_and_classN (c : BitVec 4) (x y : Reg) (n : BitVec 4) :
    formatXYN c x y n &&& 0xF00F#16 = formatXYN c 0 0 n := by
  have h : (c ++ regField x ++ regField y ++ n) &&& (0xF#4 ++ 0x0#4 ++ 0x0#4 ++ 0xF#4) =
      (c &&& 0xF#4) ++ (regField x &&& 0x0#4) ++ (regField y &&& 0x0#4) ++ (n &&& 0xF#4) := by
    rw [BitVec.and_append, BitVec.and_append, BitVec.and_append]
  refine h.trans ?_
  rw [BitVec.and_zero, BitVec.and_zero, show c &&& 0xF#4 = c from BitVec.and_allOnes,
    show n &&& 0xF#4 = n from BitVec.and_allOnes]
  rfl

/-! ## The family, one lemma per constructor -/

theorem cls : Statement (.cls) := rfl

theorem ret : Statement (.ret) := rfl

theorem jp (nnn : Addr) : Statement (.jp nnn) := formatNNN_and_class _ nnn

theorem call (nnn : Addr) : Statement (.call nnn) := formatNNN_and_class _ nnn

theorem seByte (x : Reg) (nn : Byte) : Statement (.seByte x nn) := formatXNN_and_class _ x nn

theorem sneByte (x : Reg) (nn : Byte) : Statement (.sneByte x nn) := formatXNN_and_class _ x nn

theorem seReg (x y : Reg) : Statement (.seReg x y) := formatXYN_and_classN _ x y _

theorem ldByte (x : Reg) (nn : Byte) : Statement (.ldByte x nn) := formatXNN_and_class _ x nn

theorem addByte (x : Reg) (nn : Byte) : Statement (.addByte x nn) := formatXNN_and_class _ x nn

theorem ldReg (x y : Reg) : Statement (.ldReg x y) := formatXYN_and_classN _ x y _

theorem orReg (x y : Reg) : Statement (.orReg x y) := formatXYN_and_classN _ x y _

theorem andReg (x y : Reg) : Statement (.andReg x y) := formatXYN_and_classN _ x y _

theorem xorReg (x y : Reg) : Statement (.xorReg x y) := formatXYN_and_classN _ x y _

theorem addReg (x y : Reg) : Statement (.addReg x y) := formatXYN_and_classN _ x y _

theorem sub (x y : Reg) : Statement (.sub x y) := formatXYN_and_classN _ x y _

theorem shr (x y : Reg) : Statement (.shr x y) := formatXYN_and_classN _ x y _

theorem subn (x y : Reg) : Statement (.subn x y) := formatXYN_and_classN _ x y _

theorem shl (x y : Reg) : Statement (.shl x y) := formatXYN_and_classN _ x y _

theorem sneReg (x y : Reg) : Statement (.sneReg x y) := formatXYN_and_classN _ x y _

theorem ldI (nnn : Addr) : Statement (.ldI nnn) := formatNNN_and_class _ nnn

theorem jpV0 (nnn : Addr) : Statement (.jpV0 nnn) := formatNNN_and_class _ nnn

theorem rnd (x : Reg) (nn : Byte) : Statement (.rnd x nn) := formatXNN_and_class _ x nn

theorem drw (x y : Reg) (n : Nat) : Statement (.drw x y n) := formatXYN_and_class _ x y _

theorem skp (x : Reg) : Statement (.skp x) := formatXNN_and_classNN _ x _

theorem sknp (x : Reg) : Statement (.sknp x) := formatXNN_and_classNN _ x _

theorem ldVxDt (x : Reg) : Statement (.ldVxDt x) := formatXNN_and_classNN _ x _

theorem ldVxK (x : Reg) : Statement (.ldVxK x) := formatXNN_and_classNN _ x _

theorem ldDtVx (x : Reg) : Statement (.ldDtVx x) := formatXNN_and_classNN _ x _

theorem ldStVx (x : Reg) : Statement (.ldStVx x) := formatXNN_and_classNN _ x _

theorem addI (x : Reg) : Statement (.addI x) := formatXNN_and_classNN _ x _

theorem ldF (x : Reg) : Statement (.ldF x) := formatXNN_and_classNN _ x _

theorem ldB (x : Reg) : Statement (.ldB x) := formatXNN_and_classNN _ x _

theorem ldMemVx (x : Reg) : Statement (.ldMemVx x) := formatXNN_and_classNN _ x _

theorem ldVxMem (x : Reg) : Statement (.ldVxMem x) := formatXNN_and_classNN _ x _

end Sys2Proof.Laws.EncodeMatchesRow
end

