-- ==== Sys2Proof/Tests/Slice0.lean ====
section
/-! SUPPORT. The model's own tests. Expected results are those of spec/95_test_vectors.md or worked out by hand from the
rule named; a `test_witness_` theorem shows a concrete case that meets the hypotheses of the statement it is named after,
at the boundary values where its clauses meet. -/

open Sys2Proof Sys2Proof.Machine

namespace Sys2Proof.Tests

set_option Elab.async false

/-! ## Helpers -/

/-- The next state of an outcome. -/
def next? : Result → Option State
  | .next t => some t
  | .fault _ => none
  | .refused _ => none

/-- The fault of an outcome. -/
def fault? : Result → Option Fault
  | .fault e => some e
  | .next _ => none
  | .refused _ => none

/-- Registers set on the reset state. -/
def withV (regs : List (Reg × Byte)) : State := regs.foldl (fun s p => s.setV p.1 p.2) State.reset

/-- A key set from a list of keys. -/
def keysOf (ks : List (Fin 16)) : KeySet :=
  ks.foldl (fun keys (k : Fin 16) => keys.set k.val true k.isLt) (Vector.replicate 16 false)

/-- One step that runs the word `w` placed at PC. -/
def after (s : State) (w : Nat) : Option State := next? (step (s.withFetchWord 16 w))

/-- The error a step of the word `w` raises, if it raises one. -/
def errorOf (s : State) (w : Nat) : Option FatalError :=
  match after s w with
  | some t => match t.mode with
    | .fatal e => some e
    | .normal => none
  | none => none

/-- The cells that are on, row by row. -/
def cellsOn (s : State) : List (Nat × Nat) :=
  (List.range 32).flatMap (fun y => ((List.range 64).filter (fun x => s.disp.cell x y)).map (fun x => (x, y)))

/-- `s` with bytes stored at `a`. -/
def withBytes (s : State) (a : Nat) (bytes : List Byte) : State := { s with mem := s.mem.writeBytes a bytes }

/-! ## Well-formedness: the one check, on both sides of its bound (30_encoding.md R82, R83) -/

theorem test_wellFormed_refuses_height_16 : (Instr.drw 0 0 16).wellFormed = false := by decide

theorem test_wellFormed_accepts_height_15 : (Instr.drw 0 0 15).wellFormed = true := by decide

/-! ## Decoding: a word written out bit by bit from its row's encoding, for every constructor (30_encoding.md R85) -/

theorem test_decode_class0 :
    decode 0b0000_0000_1110_0000 = .ok .cls ∧ decode 0b0000_0000_1110_1110 = .ok .ret := by decide

theorem test_decode_addresses :
    decode 0b0001_1010_1011_1100 = .ok (.jp 0xABC) ∧ decode 0b0010_1010_1011_1101 = .ok (.call 0xABD) ∧
    decode 0b1010_0010_1111_0000 = .ok (.ldI 0x2F0) ∧ decode 0b1011_0011_0100_0101 = .ok (.jpV0 0x345) := by decide

theorem test_decode_immediates :
    decode 0b0011_0011_0000_0111 = .ok (.seByte 3 0x07) ∧ decode 0b0100_0011_0000_1000 = .ok (.sneByte 3 0x08) ∧
    decode 0b0110_1010_0010_1111 = .ok (.ldByte 10 0x2F) ∧ decode 0b0111_1100_1000_0000 = .ok (.addByte 12 0x80) ∧
    decode 0b1100_0011_0000_1111 = .ok (.rnd 3 0x0F) := by decide

theorem test_decode_register_pairs :
    decode 0b0101_0001_0010_0000 = .ok (.seReg 1 2) ∧ decode 0b1001_0001_0010_0000 = .ok (.sneReg 1 2) ∧
    decode 0b1000_0001_0010_0000 = .ok (.ldReg 1 2) ∧ decode 0b1000_0001_0010_0001 = .ok (.orReg 1 2) ∧
    decode 0b1000_0001_0010_0010 = .ok (.andReg 1 2) ∧ decode 0b1000_0001_0010_0011 = .ok (.xorReg 1 2) := by decide

theorem test_decode_register_arithmetic :
    decode 0b1000_1111_0001_0100 = .ok (.addReg 15 1) ∧ decode 0b1000_1111_0001_0101 = .ok (.sub 15 1) ∧
    decode 0b1000_1111_0001_0110 = .ok (.shr 15 1) ∧ decode 0b1000_1111_0001_0111 = .ok (.subn 15 1) ∧
    decode 0b1000_1111_0001_1110 = .ok (.shl 15 1) := by decide

theorem test_decode_draw : decode 0b1101_0100_1010_0111 = .ok (.drw 4 10 7) := by decide

theorem test_decode_keys :
    decode 0b1110_0001_1001_1110 = .ok (.skp 1) ∧ decode 0b1110_0001_1010_0001 = .ok (.sknp 1) ∧
    decode 0b1111_0011_0000_1010 = .ok (.ldVxK 3) := by decide

theorem test_decode_timers :
    decode 0b1111_0101_0000_0111 = .ok (.ldVxDt 5) ∧ decode 0b1111_0101_0001_0101 = .ok (.ldDtVx 5) ∧
    decode 0b1111_0010_0001_1000 = .ok (.ldStVx 2) := by decide

theorem test_decode_index :
    decode 0b1111_0010_0001_1110 = .ok (.addI 2) ∧ decode 0b1111_0100_0010_1001 = .ok (.ldF 4) ∧
    decode 0b1111_0011_0011_0011 = .ok (.ldB 3) ∧ decode 0b1111_0010_0101_0101 = .ok (.ldMemVx 2) ∧
    decode 0b1111_0010_0110_0101 = .ok (.ldVxMem 2) := by decide

/-- The words that 95_test_vectors.md 2.2 lists as undecodable. -/
theorem test_decode_refuses :
    [0x0000, 0x0123, 0x5121, 0x8128, 0x812F, 0x9121, 0xE100, 0xF000, 0xF175, 0xFFFF].map (decodeTableWord 16) =
      List.replicate 10 none := by decide

/-- 30_encoding.md R80, R81: two bytes, the first the more significant, the rest left over. -/
theorem test_decode_bytes : decodeBytes [0xD4, 0xA7, 0x60] = .ok (.drw 4 10 7, [0x60]) ∧
    decodeBytes [0xD4] = .error .truncated := by decide

/-- The opcode table has 34 rows, all different (30_encoding.md R85). -/
theorem test_opcodeTable_rows : opcodeTable.length = 34 ∧ opcodeTable.Nodup := by decide

/-! ## Reset and construction (70_reset_and_hazards.md R270 to R272, 20_memory.md R53) -/

theorem test_reset_font : (State.reset.mem.readBytes 0x069 5) = [0xF0, 0x80, 0xF0, 0x10, 0xF0] ∧
    State.reset.mem.read 0x04F = 0 ∧ State.reset.mem.read 0x0A0 = 0 := by decide

/-- 95_test_vectors.md 2.1. -/
theorem test_cadence : [400, 500, 540, 570, 60, 30, 29].map cadence = [7, 8, 9, 10, 1, 1, 0] := by decide

/-! ## Steps, two at most for each instruction (95_test_vectors.md 2.3 to 2.7) -/

theorem test_jp : (after State.reset 0x1ABC).map (fun t => t.pc) = some 0xABC := by decide +kernel

theorem test_call : (after State.reset 0x2ABC).map (fun t => (t.pc, t.stack)) = some (0xABC, [0x202]) := by
  decide +kernel

theorem test_call_at_end_of_memory :
    (after { State.reset with pc := 0xFFE } 0x2300).map (fun t => (t.pc, t.stack)) = some (0x300, [0x1000]) := by
  decide +kernel

theorem test_ret : (after { State.reset with stack := [0x456] } 0x00EE).map (fun t => (t.pc, t.stack)) =
    some (0x456, []) := by decide +kernel

theorem test_ret_empty : errorOf State.reset 0x00EE = some (.stackUnderflow 0x200) := by decide +kernel

theorem test_jpV0 : (after (withV [(0, 0xFF)]) 0xB0FF).map (fun t => t.pc) = some 0x1FE := by decide +kernel

theorem test_jpV0_past_12_bits : (after (withV [(0, 0xFF)]) 0xBFFF).map (fun t => t.pc) = some 0x10FE := by
  decide +kernel

theorem test_seByte : (after (withV [(3, 0x07)]) 0x3307).map (fun t => t.pc) = some 0x204 := by decide +kernel

theorem test_seByte_differs : (after (withV [(3, 0x07)]) 0x3308).map (fun t => t.pc) = some 0x202 := by decide +kernel

theorem test_sneByte : (after (withV [(3, 0x07)]) 0x4308).map (fun t => t.pc) = some 0x204 := by decide +kernel

theorem test_sneByte_equal : (after (withV [(3, 0x07)]) 0x4307).map (fun t => t.pc) = some 0x202 := by decide +kernel

theorem test_seReg : (after (withV [(1, 0x40), (2, 0x40)]) 0x5120).map (fun t => t.pc) = some 0x204 := by
  decide +kernel

theorem test_sneReg : (after (withV [(1, 0x40), (2, 0x41)]) 0x9120).map (fun t => t.pc) = some 0x204 := by
  decide +kernel

theorem test_ldByte : (after State.reset 0x6A2F).map (fun t => (t.getV 10, t.getV 15, t.pc)) =
    some (0x2F, 0, 0x202) := by decide +kernel

theorem test_addByte_keeps_VF : (after (withV [(1, 0xFF), (15, 5)]) 0x7101).map (fun t => (t.getV 1, t.getV 15)) =
    some (0, 5) := by decide +kernel

theorem test_ldReg : (after (withV [(2, 0x55)]) 0x8120).map (fun t => (t.getV 1, t.getV 2)) = some (0x55, 0x55) := by
  decide +kernel

theorem test_or_keeps_VF : (after (withV [(1, 0x0F), (2, 0xF0), (15, 9)]) 0x8121).map
    (fun t => (t.getV 1, t.getV 15)) = some (0xFF, 9) := by decide +kernel

theorem test_and : (after (withV [(1, 0x3C), (2, 0x0F)]) 0x8122).map (fun t => t.getV 1) = some 0x0C := by
  decide +kernel

theorem test_xor : (after (withV [(1, 0x3C), (2, 0x0F)]) 0x8123).map (fun t => t.getV 1) = some 0x33 := by
  decide +kernel

theorem test_addReg_carry : (after (withV [(1, 0x80), (2, 0x80)]) 0x8124).map (fun t => (t.getV 1, t.getV 15)) =
    some (0, 1) := by decide +kernel

theorem test_addReg_flag_wins : (after (withV [(15, 0xFF), (1, 1)]) 0x8F14).map (fun t => t.getV 15) = some 1 := by
  decide +kernel

theorem test_sub_equal : (after (withV [(0, 5), (1, 5)]) 0x8015).map (fun t => (t.getV 0, t.getV 15)) =
    some (0, 0) := by decide +kernel

theorem test_sub_borrow : (after (withV [(0, 3), (1, 5)]) 0x8015).map (fun t => (t.getV 0, t.getV 15)) =
    some (0xFE, 0) := by decide +kernel

theorem test_shr_reads_VY : (after (withV [(1, 0xFF), (2, 0x05)]) 0x8126).map
    (fun t => (t.getV 1, t.getV 2, t.getV 15)) = some (0x02, 0x05, 1) := by decide +kernel

theorem test_shr_even : (after (withV [(2, 0x04)]) 0x8126).map (fun t => (t.getV 1, t.getV 15)) = some (0x02, 0) := by
  decide +kernel

theorem test_subn : (after (withV [(1, 3), (2, 5)]) 0x8127).map (fun t => (t.getV 1, t.getV 15)) = some (2, 1) := by
  decide +kernel

theorem test_subn_borrow : (after (withV [(1, 5), (2, 3)]) 0x8127).map (fun t => (t.getV 1, t.getV 15)) =
    some (0xFE, 0) := by decide +kernel

theorem test_shl : (after (withV [(2, 0x81)]) 0x812E).map (fun t => (t.getV 1, t.getV 15)) = some (0x02, 1) := by
  decide +kernel

theorem test_shl_0x40 : (after (withV [(2, 0x40)]) 0x812E).map (fun t => (t.getV 1, t.getV 15)) =
    some (0x80, 0) := by decide +kernel

/-- Any draw, masked; the next draw is a fresh one. -/
theorem test_rnd : (after State.reset 0xC30F).map (fun t => (t.getV 3, t.getV 15, t.draws)) =
    some (Config.draw 0 &&& 0x0F, 0, 1) := rfl

/-- Mask 0, any draw. -/
theorem test_rnd_mask_0 : (after (withV [(3, 0x77)]) 0xC300).map (fun t => t.getV 3) = some 0 := by
  have h : (after (withV [(3, 0x77)]) 0xC300).map (fun t => t.getV 3) = some (Config.draw 0 &&& 0x00) := rfl
  exact h.trans (congrArg some BitVec.and_zero)

theorem test_ldI : (after State.reset 0xA2F0).map (fun t => t.i) = some 0x2F0 := by decide +kernel

theorem test_addI_past_0xFFF : (after { withV [(2, 1)] with i := 0xFFF } 0xF21E).map (fun t => (t.i, t.getV 15)) =
    some (0x1000, 0) := by decide +kernel

theorem test_addI_wraps : (after { withV [(2, 2)] with i := 0xFFFF } 0xF21E).map (fun t => t.i) = some 1 := by
  decide +kernel

theorem test_ldF : (after (withV [(4, 0x0A)]) 0xF429).map (fun t => t.i) = some 0x082 := by decide +kernel

theorem test_ldF_past_16 : (after (withV [(4, 0xFF)]) 0xF429).map (fun t => t.i) = some 0x54B := by decide +kernel

theorem test_ldB : (after { withV [(3, 156)] with i := 0x300 } 0xF333).map
    (fun t => (t.mem.readBytes 0x300 3, t.i)) = some ([1, 5, 6], 0x300) := by decide +kernel

theorem test_ldB_out_of_bounds : errorOf { withV [(3, 156)] with i := 0xFFE } 0xF333 =
    some (.outOfBoundsMemoryAccess 0x1000) := by decide +kernel

theorem test_ldMemVx : (after { withV [(0, 1), (1, 2), (2, 3), (3, 4)] with i := 0x400 } 0xF255).map
    (fun t => (t.mem.readBytes 0x400 4, t.i)) = some ([1, 2, 3, 0], 0x400) := by decide +kernel

theorem test_ldMemVx_out_of_bounds : errorOf { State.reset with i := 0xFFC } 0xF455 =
    some (.outOfBoundsMemoryAccess 0x1000) := by decide +kernel

theorem test_ldVxMem : (after { withBytes State.reset 0x400 [1, 2, 3, 4] with i := 0x400 } 0xF265).map
    (fun t => (t.getV 0, t.getV 1, t.getV 2, t.getV 3)) = some (1, 2, 3, 0) := by decide +kernel

theorem test_ldVxMem_out_of_bounds : errorOf { State.reset with i := 0xFF8 } 0xFF65 =
    some (.outOfBoundsMemoryAccess 0x1007) := by decide +kernel

theorem test_cls : (after { State.reset with disp := State.reset.disp.toggle 63 31 } 0x00E0).map
    (fun t => (cellsOn t, t.redraw)) = some ([], true) := by decide +kernel

theorem test_drw_right_clip : (after { withV [(0, 62)] with i := 0x050 } 0xD015).map
    (fun t => (cellsOn t, t.getV 15)) =
      some ([(62, 0), (63, 0), (62, 1), (62, 2), (62, 3), (62, 4), (63, 4)], 0) := by decide +kernel

theorem test_drw_partial_collision :
    (after { withBytes State.reset 0x300 [0x81] with i := 0x300, disp := State.reset.disp.toggle 0 0 } 0xD011).map
      (fun t => (cellsOn t, t.getV 15)) = some ([(7, 0)], 1) := by decide +kernel

theorem test_skp : (after { withV [(1, 5)] with keys := keysOf [5] } 0xE19E).map (fun t => t.pc) = some 0x204 := by
  decide +kernel

theorem test_skp_past_16 : (after { withV [(1, 0x15)] with keys := Vector.replicate 16 true } 0xE19E).map
    (fun t => t.pc) = some 0x202 := by decide +kernel

theorem test_sknp : (after (withV [(1, 0x10)]) 0xE1A1).map (fun t => t.pc) = some 0x204 := by decide +kernel

theorem test_sknp_pressed : (after { withV [(1, 5)] with keys := keysOf [5, 6] } 0xE1A1).map (fun t => t.pc) =
    some 0x202 := by decide +kernel

theorem test_ldVxK : (after { State.reset with keys := keysOf [10] } 0xF30A).map (fun t => (t.getV 3, t.pc)) =
    some (0x0A, 0x202) := by decide +kernel

theorem test_ldVxK_two_keys : (after { State.reset with keys := keysOf [1, 2] } 0xF30A).map
    (fun t => (t.getV 3, t.pc)) = some (0, 0x200) := by decide +kernel

theorem test_ldVxDt : (after { State.reset with dt := 0x3C } 0xF507).map (fun t => t.getV 5) = some 0x3C := by
  decide +kernel

theorem test_ldDtVx : (after (withV [(5, 0x3C)]) 0xF515).map (fun t => t.dt) = some 0x3C := by decide +kernel

theorem test_ldStVx_start : (after (withV [(2, 0x10)]) 0xF218).map (fun t => (t.st, t.toneCommands, t.toneOn)) =
    some (0x10, [.start], true) := by decide +kernel

theorem test_ldStVx_stop :
    (after { State.reset with st := 5, toneOn := true, toneCommands := [.start] } 0xF218).map
      (fun t => (t.st, t.toneCommands, t.toneOn)) = some (0, [.start, .stop], false) := by decide +kernel

/-- 60_exceptions.md R247: the fatal step keeps the rest of the state and the next one does not exist. -/
theorem test_undecodable : errorOf (withV [(1, 7)]) 0x5121 = some (.undecodableInstruction 0x5121 0x200) ∧
    ((after (withV [(1, 7)]) 0x5121).map (fun t => (t.getV 1, t.tickCount, fault? (step t)))) =
      some (7, 0, some (.engineStopped (.undecodableInstruction 0x5121 0x200))) := by decide +kernel

/-- 40_cycle.md R118: the last tick of a frame updates the timers and resets tick_count. -/
theorem test_last_tick_of_frame :
    (after { State.reset with dt := 0xFF, st := 1, toneOn := true, tickCount := 6, frameLeft := 1 } 0x1200).map
      (fun t => (t.dt, t.st, t.toneCommands, t.tickCount, t.frameLeft)) = some (0xFE, 0, [.stop], 0, 0) := by
  decide +kernel

/-! ## Witnesses: a concrete case meeting the hypotheses of each statement -/

/-- The reset state with the word `w` at PC. -/
def at200 (w : Nat) : State := State.reset.withFetchWord 16 w

/-- The reset state with the word `w` at the last place an instruction fits, 0xFFE. -/
def atFFE (w : Nat) : State := { State.reset with pc := 0xFFE }.withFetchWord 16 w

/-- A stopped engine. -/
def stopped : State := { State.reset with mode := .fatal (.stackUnderflow 0x200) }

theorem test_witness_DecodeInvertsEncode : (Instr.drw 15 15 15).wellFormed = true := by decide

/-- One word for each alternative, one bit apart. -/
theorem test_witness_EveryWordDecodesUniquelyOrFails :
    decode 0x9120 = .ok (.sneReg 1 2) ∧ decode 0x9121 = .error (.undecodable 0x9121) := by decide

theorem test_witness_FetchReadsBigEndianOrRaises :
    (atFFE 0x1FFE).pc.toNat < 0xFFF ∧
    (0xFFF ≤ { State.reset with pc := 0xFFF }.pc.toNat ∧ { State.reset with pc := 0xFFF }.mode = .normal) := by
  decide +kernel

theorem test_witness_UndecodableWordIsFatal :
    (atFFE 0xF0FF).mode = .normal ∧ (atFFE 0xF0FF).pc.toNat < 0xFFF ∧
    decode (atFFE 0xF0FF).wordAtPc = .error (.undecodable 0xF0FF) := by decide +kernel

theorem test_witness_StepRunsTheDecodedInstruction :
    (atFFE 0x2300).mode = .normal ∧ (atFFE 0x2300).pc.toNat < 0xFFF ∧
    decode (atFFE 0x2300).wordAtPc = .ok (.call 0x300) := by decide +kernel

/-- A word that decodes and one that does not. -/
theorem test_witness_PlacedWordIsTheNextInstruction :
    (atFFE 0x1200).mode = .normal ∧ MemoryCanonical (atFFE 0x1200) ∧ (atFFE 0x1200).pc.toNat < 0xFFF ∧
    decodeTableWord 16 0x2300 = some (.call 0x300) ∧ decodeTableWord 16 0xF0FF = none :=
  ⟨by decide +kernel, show (atFFE 0x1200).mem.wf = true by decide +kernel, by decide +kernel, by decide +kernel,
    by decide +kernel⟩

theorem test_witness_FatalModeHasNoStep : stopped.mode = .fatal (.stackUnderflow 0x200) := by decide +kernel

/-- Both cases of each instruction that can fail, next to each other. -/
theorem test_witness_ExecuteFailsExactlyAsListed :
    executeError (.drw 0 0 1) { State.reset with i := 0xFFF } = none ∧
    executeError (.drw 0 0 2) { State.reset with i := 0xFFF } = some (.outOfBoundsMemoryAccess 0x1000) ∧
    executeError (.ldB 0) { State.reset with i := 0xFFD } = none ∧
    executeError (.ldB 0) { State.reset with i := 0xFFE } = some (.outOfBoundsMemoryAccess 0x1000) ∧
    executeError (.ldMemVx 3) { State.reset with i := 0xFFC } = none ∧
    executeError (.ldVxMem 4) { State.reset with i := 0xFFC } = some (.outOfBoundsMemoryAccess 0x1000) ∧
    executeError (.call 0) { State.reset with options := { Config.Options.default with stackLimit := some 0 } } =
      some (.stackOverflow 0x200) := by decide +kernel

/-- The first error: fetch, decode, execute; and none. -/
theorem test_witness_TickRaisesTheFirstErrorOnly :
    State.reset.mode = .normal ∧
    tickError { State.reset with pc := 0xFFF } = some (.outOfBoundsMemoryAccess 0x1000) ∧
    tickError (atFFE 0xF0FF) = some (.undecodableInstruction 0xF0FF 0xFFE) ∧
    tickError (at200 0x00EE) = some (.stackUnderflow 0x200) ∧ tickError (at200 0x1200) = none := by decide +kernel

theorem test_witness_ErrorsArePrecise :
    ∃ t, tick (at200 0x00EE) = .next t ∧ t.mode = .fatal (.stackUnderflow 0x200) := ⟨_, rfl, rfl⟩

theorem test_witness_ErrorStopsTheFrameUncounted :
    ∃ t, step { at200 0x00EE with frameLeft := 5, tickCount := 2, dt := 5 } = .next t ∧
      t.mode = .fatal (.stackUnderflow 0x200) := ⟨_, rfl, rfl⟩

theorem test_witness_TickTouchesTimersOnlyByFX15AndFX18 :
    (∃ t, tick ((withV [(5, 0x3C)]).withFetchWord 16 0xF515) = .next t ∧ t.dt ≠ State.reset.dt) ∧
    (∃ t, tick ((withV [(2, 0x10)]).withFetchWord 16 0xF218) = .next t ∧ t.st ≠ State.reset.st) :=
  ⟨⟨_, rfl, by decide +kernel⟩, ⟨_, rfl, by decide +kernel⟩⟩

/-- A frame begun, and one going on with the flag set. -/
theorem test_witness_RedrawFollowsClsAndDrwOnly :
    (∃ t, step (at200 0x00E0) = .next t ∧ t.mode = .normal) ∧ decode (at200 0x00E0).wordAtPc = .ok .cls ∧
    (∃ t, step { at200 0x1200 with frameLeft := 3, redraw := true } = .next t ∧ t.mode = .normal ∧
      t.redraw = true) :=
  ⟨⟨_, rfl, rfl⟩, by decide +kernel, ⟨_, rfl, rfl, rfl⟩⟩

/-- The last tick of a frame, with the tone stop of the timer update, and one before it. -/
theorem test_witness_StepCountsTicksAndUpdatesTimers :
    (∃ t, step { at200 0x1200 with frameLeft := 1, tickCount := 6, st := 1 } = .next t ∧ t.mode = .normal ∧
      t.toneCommands = [.stop]) ∧
    (∃ t, step { at200 0x1200 with frameLeft := 2, tickCount := 5 } = .next t ∧ t.mode = .normal) :=
  ⟨⟨_, rfl, rfl, rfl⟩, ⟨_, rfl, rfl⟩⟩

theorem test_witness_RunFrameIsTicksPerFrameSteps :
    (at200 0x1200).mode = .normal ∧ (at200 0x1200).frameLeft = 0 ∧ 0 < (at200 0x1200).ticksPerFrame ∧
    (∃ t, runFrame { at200 0x1200 with ticksPerFrame := 1, timerInterval := 1 } = .next t ∧ t.mode = .normal) ∧
    (∃ t, runFrame (at200 0x00EE) = .next t ∧ t.mode = .fatal (.stackUnderflow 0x200)) :=
  ⟨rfl, rfl, by decide +kernel, ⟨_, rfl, rfl⟩, ⟨_, rfl, rfl⟩⟩

theorem test_witness_CompleteFrameUpdatesTimersOnce :
    CadenceConsistent { at200 0x1200 with ticksPerFrame := 1, timerInterval := 1, dt := 5 } ∧
    ∃ t, runFrame { at200 0x1200 with ticksPerFrame := 1, timerInterval := 1, dt := 5 } = .next t ∧
      t.mode = .normal ∧ t.dt = 4 :=
  ⟨⟨by decide, rfl, by decide, fun _ => .inl ⟨rfl, rfl⟩, fun _ => rfl⟩, ⟨_, rfl, rfl, rfl⟩⟩

/-- The boundary of each clause: clock speeds 29 and 30, programs of 3584 and 3585 bytes. -/
theorem test_witness_ConstructionFailsExactlyAsListed :
    (29 < 30) ∧ (30 ≤ 30 ∧ 3584 < (List.replicate 3585 (0 : Byte)).length) ∧
    (30 ≤ 30 ∧ (List.replicate 3584 (0 : Byte)).length ≤ 3584) := by
  rw [List.length_replicate, List.length_replicate]
  omega

theorem test_witness_ConstructionLoadsTheProgram :
    ∃ s, construct Config.Options.default 400 [0x12, 0x00] = .ok s ∧ s.mem.readBytes 0x200 3 = [0x12, 0x00, 0x00] :=
  ⟨_, rfl, by decide +kernel⟩

/-- Between frames and inside one. -/
theorem test_witness_SetKeysReplacesKeysBetweenFrames :
    State.reset.mode = .normal ∧ State.reset.frameLeft = 0 ∧ { State.reset with frameLeft := 1 }.frameLeft ≠ 0 := by
  decide +kernel

theorem test_witness_ConstructedStatesMeetTheInvariant :
    ∃ s, construct Config.Options.default 30 [0x12, 0x00] = .ok s := ⟨_, rfl⟩

theorem test_witness_StepKeepsMemoryCanonical :
    MemoryCanonical ({ withV [(0, 7)] with i := 0x400 }.withFetchWord 16 0xF055) ∧
    ∃ t, step ({ withV [(0, 7)] with i := 0x400 }.withFetchWord 16 0xF055) = .next t ∧ t.mem.read 0x400 = 7 :=
  ⟨show Memory.wf _ = true by decide +kernel, ⟨_, rfl, by decide +kernel⟩⟩

theorem test_witness_StepKeepsToneConsistent :
    ToneConsistent { at200 0xF018 with st := 5, toneOn := true, toneCommands := [.start] } ∧
    ∃ t, step { at200 0xF018 with st := 5, toneOn := true, toneCommands := [.start] } = .next t ∧ t.st = 0 :=
  ⟨⟨by decide +kernel, by decide +kernel⟩, ⟨_, rfl, by decide +kernel⟩⟩

theorem test_witness_StepKeepsCadenceConsistent :
    CadenceConsistent { at200 0x1200 with frameLeft := 1, tickCount := 6 } ∧
    ∃ t, step { at200 0x1200 with frameLeft := 1, tickCount := 6 } = .next t :=
  ⟨⟨by decide +kernel, rfl, by decide +kernel, fun _ => .inr ⟨by decide +kernel, by decide +kernel⟩,
    fun h => absurd rfl h⟩, ⟨_, rfl⟩⟩

/-- The highest return address, 0x1000, and the highest PC, 0x10FE. -/
theorem test_witness_StepKeepsPcInRange :
    (PcInRange (atFFE 0x2300) ∧ ∃ t, step (atFFE 0x2300) = .next t ∧ t.stack = [0x1000]) ∧
    (PcInRange ((withV [(0, 0xFF)]).withFetchWord 16 0xBFFF) ∧
      ∃ t, step ((withV [(0, 0xFF)]).withFetchWord 16 0xBFFF) = .next t ∧ t.pc = 0x10FE) :=
  ⟨⟨⟨fun _ => by decide +kernel, fun _ h => absurd h List.not_mem_nil⟩, ⟨_, rfl, by decide +kernel⟩⟩,
   ⟨⟨fun _ => by decide +kernel, fun _ h => absurd h List.not_mem_nil⟩, ⟨_, rfl, by decide +kernel⟩⟩⟩

theorem test_witness_ReachableStatesMeetTheInvariant :
    Reachable State.reset ∧ ∃ t, Reachable t ∧ t.mode ≠ .normal :=
  have h : construct Config.Options.default Config.defaultClockSpeed [] = .ok State.reset := rfl
  ⟨.constructed h, ⟨_, .stepped (.constructed h) rfl, by decide +kernel⟩⟩

theorem test_witness_RegistersChangeOnlyByNameOrFlag :
    (∃ t, exec (.ldVxMem 1) { State.reset with i := 0x050 } = .next t ∧ t.getV 1 ≠ State.reset.getV 1) ∧
    (∃ t, exec (.addReg 1 2) (withV [(1, 0x80), (2, 0x80)]) = .next t ∧
      t.getV 15 ≠ (withV [(1, 0x80), (2, 0x80)]).getV 15) :=
  ⟨⟨_, rfl, by decide +kernel⟩, ⟨_, rfl, by decide +kernel⟩⟩

theorem test_witness_DisplayChangesOnlyByClsAndDrw :
    (∃ t, exec (.drw 0 0 1) { State.reset with i := 0x050 } = .next t ∧ t.disp ≠ State.reset.disp) ∧
    (∃ t, exec .cls { State.reset with disp := State.reset.disp.toggle 0 0 } = .next t ∧
      t.disp ≠ State.reset.disp.toggle 0 0) :=
  ⟨⟨_, rfl, by decide +kernel⟩, ⟨_, rfl, by decide +kernel⟩⟩

/-- The last byte each instruction stores. -/
theorem test_witness_MemoryChangesOnlyByBcdAndDump :
    MemoryCanonical { withV [(3, 255)] with i := 0xFFD } ∧
    (∃ t, exec (.ldB 3) { withV [(3, 255)] with i := 0xFFD } = .next t ∧
      t.mem.read 0xFFF ≠ State.reset.mem.read 0xFFF) ∧
    (∃ t, exec (.ldMemVx 3) { withV [(3, 255)] with i := 0xFFC } = .next t ∧
      t.mem.read 0xFFF ≠ State.reset.mem.read 0xFFF) :=
  ⟨show Memory.wf _ = true by decide +kernel, ⟨_, rfl, by decide +kernel⟩, ⟨_, rfl, by decide +kernel⟩⟩

theorem test_witness_StackChangesOnlyByCallAndRet :
    (∃ t, exec (.call 0x300) State.reset = .next t ∧ t.stack ≠ State.reset.stack) ∧
    (∃ t, exec .ret { State.reset with stack := [0x456] } = .next t ∧ t.stack ≠ [0x456]) :=
  ⟨⟨_, rfl, by decide +kernel⟩, ⟨_, rfl, by decide +kernel⟩⟩

theorem test_witness_IndexChangesOnlyByItsWriters :
    (∃ t, exec (.ldF 0) State.reset = .next t ∧ t.i ≠ State.reset.i) ∧
    (∃ t, exec (.ldMemVx 0)
        { State.reset with options := { Config.Options.default with loadStoreIncrementsI := true } } = .next t ∧
      t.i ≠ State.reset.i) :=
  ⟨⟨_, rfl, by decide +kernel⟩, ⟨_, rfl, by decide +kernel⟩⟩

theorem test_witness_PcChangesOnlyByControlTransfers :
    executeError (.ldVxK 0) State.reset = none ∧
    (∃ t, exec (.ldVxK 0) State.reset = .next t ∧ t.pc ≠ State.reset.pc) ∧
    (∃ t, exec (.jp 0x300) State.reset = .next t ∧ t.pc ≠ State.reset.pc) :=
  ⟨rfl, ⟨_, rfl, by decide +kernel⟩, ⟨_, rfl, by decide +kernel⟩⟩

/-- A stack limit one above the depth, and the depth itself. -/
theorem test_witness_CallPushesThenJumps :
    { State.reset with options := { Config.Options.default with stackLimit := some 1 } }.options.stackLimit ≠
      some State.reset.stack.length ∧
    { State.reset with options := { Config.Options.default with stackLimit := some 0 } }.options.stackLimit =
      some State.reset.stack.length := by decide +kernel

theorem test_witness_RetPopsIntoPc :
    { State.reset with stack := [0x456] }.stack = 0x456 :: [] ∧ State.reset.stack = [] := by decide +kernel

/-- No call, and the two calls of 95_test_vectors.md T6: the stack after them, PC after the two returns, and the third
return's error. -/
theorem test_witness_NestedCallsReturn :
    State.reset.mode = .normal ∧ State.reset.options.stackLimit = none ∧ State.reset.stack = [] ∧
    State.reset = (if ([] : List Addr) = [] then State.reset else State.reset.advancePc) ∧
    State.reset.advancePc = (if [(0x210 : Addr), 0x220] = [] then State.reset else State.reset.advancePc) ∧
    (∃ t, callAll [0x210, 0x220] State.reset = .next t ∧ t.stack = [0x212, 0x202] ∧
      (∃ u, retTimes 2 t = .next u ∧ u.pc = 0x202) ∧
      ∃ u, retTimes 3 t = .next u ∧ u.mode = .fatal (.stackUnderflow 0x202)) :=
  ⟨rfl, rfl, rfl, rfl, rfl, ⟨_, rfl, rfl, ⟨_, rfl, rfl⟩, ⟨_, rfl, rfl⟩⟩⟩

/-- A key identifier pressed, one not pressed, and a value past the sixteen keys. -/
theorem test_witness_KeySkipsTestTheWholeRegister :
    KeyPressed { withV [(1, 15)] with keys := keysOf [15] } ((withV [(1, 15)]).getV 1) ∧
    ¬ KeyPressed { withV [(1, 16)] with keys := Vector.replicate 16 true } ((withV [(1, 16)]).getV 1) := by
  unfold KeyPressed; decide +kernel

/-- One key, none, two. -/
theorem test_witness_WaitForKeyTakesExactlyOneKey :
    OnlyKeyPressed { State.reset with keys := keysOf [15] } 15 ∧
    (¬ ∃ k, OnlyKeyPressed State.reset k) ∧ ¬ ∃ k, OnlyKeyPressed { State.reset with keys := keysOf [0, 15] } k := by
  unfold OnlyKeyPressed; decide +kernel

/-- Start, stop, and no transition on either side. -/
theorem test_witness_SoundTimerEmitsOnTransitions :
    (State.reset.st = 0 ∧ (withV [(2, 1)]).getV 2 ≠ 0) ∧
    ({ State.reset with st := 1 }.st ≠ 0 ∧ State.reset.getV 2 = 0) ∧
    (State.reset.st = 0 ↔ State.reset.getV 2 = 0) ∧
    ({ withV [(2, 9)] with st := 5 }.st = 0 ↔ (withV [(2, 9)]).getV 2 = 0) := by
  decide +kernel

/-- The sums 0xFFFF and 0x10000, and the wrapping setting. -/
theorem test_witness_AddIndexWrapsOrRaises :
    State.reset.options.indexWrap = .wrap16 ∧
    { withV [(2, 1)] with i := 0xFFFE }.i.toNat + ((withV [(2, 1)]).getV 2).toNat ≤ 0xFFFF ∧
    { State.reset with options := { Config.Options.default with indexWrap := .fault } }.options.indexWrap = .fault ∧
    0xFFFF < { withV [(2, 2)] with i := 0xFFFE }.i.toNat + ((withV [(2, 2)]).getV 2).toNat := by decide +kernel

/-- I + 2 at the last byte and one past it. -/
theorem test_witness_BcdStoresThreeDigits :
    MemoryCanonical State.reset ∧ { State.reset with i := 0xFFD }.indexAddr + 2 < 4096 ∧
    4096 ≤ { State.reset with i := 0xFFE }.indexAddr + 2 :=
  ⟨rfl, by decide +kernel, by decide +kernel⟩

/-- I + X at the last byte and one past it. -/
theorem test_witness_DumpStoresRegisters :
    MemoryCanonical State.reset ∧ { State.reset with i := 0xFFC }.indexAddr + (3 : Reg).val < 4096 ∧
    4096 ≤ { State.reset with i := 0xFFC }.indexAddr + (4 : Reg).val :=
  ⟨rfl, by decide +kernel, by decide +kernel⟩

/-- I + X at the last byte and one past it. -/
theorem test_witness_LoadReadsRegisters :
    { State.reset with i := 0xFF0 }.indexAddr + (15 : Reg).val < 4096 ∧
    4096 ≤ { State.reset with i := 0xFF1 }.indexAddr + (15 : Reg).val := by decide +kernel

/-- The stores that end at the last byte, and a fetch of which only the first byte is stored. -/
theorem test_witness_StoredBytesAreFetched :
    MemoryCanonical { withV [(3, 0x60)] with i := 0xFFD, pc := 0xFFE } ∧
    { withV [(3, 0x60)] with i := 0xFFD, pc := 0xFFE }.pc.toNat < 0xFFF ∧
    { withV [(3, 0x60)] with i := 0xFFD, pc := 0xFFE }.indexAddr + 2 < 4096 ∧
    { withV [(0, 0x60)] with i := 0x300, pc := 0x300 }.indexAddr + (0 : Reg).val < 4096 ∧
    byteAfterDump { withV [(0, 0x60)] with i := 0x300, pc := 0x300 } 0 0x300 = 0x60 ∧
    byteAfterDump { withV [(0, 0x60)] with i := 0x300, pc := 0x300 } 0 0x301 = 0 :=
  ⟨show Memory.wf _ = true by decide +kernel, by decide +kernel, by decide +kernel, by decide +kernel,
    by decide +kernel, by decide +kernel⟩

theorem test_witness_LoadAfterDumpRestoresRegisters :
    MemoryCanonical { withV [(0, 0xA)] with i := 0x500 } ∧
    ∃ t u w, exec (.ldMemVx 3) { withV [(0, 0xA)] with i := 0x500 } = .next t ∧ u = t.setV 0 0 ∧
      u.mem = t.mem ∧ u.i = 0x500 ∧ exec (.ldVxMem 3) u = .next w ∧ w.getV 0 = 0xA :=
  ⟨rfl, ⟨_, _, _, rfl, rfl, rfl, rfl, rfl, by decide +kernel⟩⟩

/-- N = 0 anywhere, a sprite that ends at the last byte, and one that ends one past it. -/
theorem test_witness_DrawTogglesExactlyTheSpriteBits :
    (0 = 0 ∨ { State.reset with i := 0xFFFF }.i.toNat + 0 ≤ 4096) ∧
    (15 = 0 ∨ { State.reset with i := 0xFF1 }.i.toNat + 15 ≤ 4096) ∧
    (0 < 15 ∧ 4096 < { State.reset with i := 0xFF2 }.i.toNat + 15) := by decide +kernel

/-- The same glyph drawn twice: the display is clear again and VF is 1 (program P3 of 95_test_vectors.md). -/
theorem test_witness_DrawingTwiceRestoresTheDisplay :
    (5 = 0 ∨ { withV [(1, 10), (2, 3)] with i := 0x069 }.i.toNat + 5 ≤ 4096) ∧
    ∃ t u, exec (.drw 1 2 5) { withV [(1, 10), (2, 3)] with i := 0x069 } = .next t ∧
      t.getV 1 = (withV [(1, 10), (2, 3)]).getV 1 ∧ t.getV 2 = (withV [(1, 10), (2, 3)]).getV 2 ∧
      exec (.drw 1 2 5) t = .next u ∧ u.getV 15 = 1 :=
  ⟨by decide +kernel, ⟨_, _, rfl, by decide +kernel, by decide +kernel, rfl, by decide +kernel⟩⟩

/-- Between frames and inside one. -/
theorem test_witness_HostCallsActBetweenFramesOnly :
    (at200 0x1200).mode = .normal ∧ (at200 0x1200).frameLeft = 0 ∧ { at200 0x1200 with frameLeft := 1 }.frameLeft ≠ 0 :=
  ⟨rfl, rfl, by decide +kernel⟩

end Sys2Proof.Tests
end

/-! ## What one tick runs, and the undecodable word (30_encoding.md R95) -/

namespace Sys2Proof.Machine

/-- In mode normal the tick is its instruction, run with nothing returned yet (40_cycle.md R112, R113). -/
theorem tick_normal {s : State} (h : s.mode = .normal) : tick s = runInstruction s.clearRequest := by
  simp only [tick, h]

@[simp] theorem State.wordAtPc_clearRequest (s : State) : s.clearRequest.wordAtPc = s.wordAtPc := rfl

/-- A word in memory that does not decode is raised under its own name, at the address it was fetched from. -/
theorem runInstruction_of_decode_error {s : State} {e : DecodeError} (hpc : s.pc.toNat < 0xFFF)
    (hd : decode s.wordAtPc = .error e) :
    runInstruction s = .next (s.raise (.undecodableInstruction s.wordAtPc s.pc) s.pc) := by
  simp only [runInstruction, fetch_in hpc, hd]

/-- Settles O5: the tick raises the error on the state whose redraw request is cleared, and raising changes nothing but
the mode and PC. -/
theorem undecodableWordIsFatal : Obligations.UndecodableWordIsFatal := by
  intro s e hmode hpc hdecode
  have htick : tick s = .next (s.clearRequest.raise (.undecodableInstruction s.wordAtPc s.pc) s.pc) := by
    rw [tick_normal hmode, runInstruction_of_decode_error (s := s.clearRequest) hpc hdecode,
      State.wordAtPc_clearRequest, State.clearRequest_pc]
  exact ⟨_, htick, raise_entersFatal s.clearRequest _ _⟩

end Sys2Proof.Machine

/-! ## The fetch and its bounds error (40_cycle.md R111) -/

namespace Sys2Proof.Machine

/-- The fetch past the end of memory: the address recorded is the word's second byte's. -/
theorem fetch_out {s : State} (h : 0xFFF ≤ s.pc.toNat) :
    s.fetch = .error (.outOfBoundsMemoryAccess (s.pc.toNat + 1)) := by
  rw [State.fetch, memRead_out (by omega) (by omega)]
  rfl

/-- The bounds error is raised before anything is advanced or decoded. -/
theorem runInstruction_of_fetch_error {s : State} {e : FatalError} (h : s.fetch = .error e) :
    runInstruction s = .next (s.raise e s.pc) := by
  simp only [runInstruction, h]

/-- Settles O4: inside memory the fetch is the word at PC, whose bytes count as R59 orders them; outside it the tick
raises the fetch's own error on the state whose redraw request is cleared. -/
theorem fetchReadsBigEndianOrRaises : Obligations.FetchReadsBigEndianOrRaises := by
  intro s
  refine ⟨fun hin => ⟨s.wordAtPc, fetch_in hin, wordOfBytes_toNat _ _⟩, fun hout => ⟨fetch_out hout, fun hmode => ?_⟩⟩
  have htick : tick s = .next (s.clearRequest.raise (.outOfBoundsMemoryAccess (s.pc.toNat + 1)) s.pc) := by
    rw [tick_normal hmode]
    exact runInstruction_of_fetch_error (fetch_out (s := s.clearRequest) hout)
  exact ⟨_, htick, raise_entersFatal s.clearRequest _ _⟩

end Sys2Proof.Machine

/-! ## What a tick leaves to the frame loop, and to FX15 and FX18 (40_cycle.md R114) -/

namespace Sys2Proof.Machine

/-- The components that a tick does not touch, and below them those that only FX15 or FX18 touches. -/
structure CycleFields where
  tickCount : Nat
  redraw : Bool
  keys : KeySet
  ticksPerFrame : Nat
  timerInterval : Nat
  options : Config.Options
  frameLeft : Nat
  dt : Byte
  st : Byte
  toneOn : Bool
  toneCommands : List ToneCommand

/-- The state's own values of these components. An update that names none of them leaves this equal by rfl. -/
def State.cycleFields (s : State) : CycleFields :=
  { tickCount := s.tickCount, redraw := s.redraw, keys := s.keys, ticksPerFrame := s.ticksPerFrame,
    timerInterval := s.timerInterval, options := s.options, frameLeft := s.frameLeft, dt := s.dt, st := s.st,
    toneOn := s.toneOn, toneCommands := s.toneCommands }

@[simp] theorem State.cycleFields_skipIf (s : State) (c : Bool) : (s.skipIf c).cycleFields = s.cycleFields := by
  rw [skipIf_eq]; rfl

@[simp] theorem State.cycleFields_advanceI (s : State) (x : Reg) : (s.advanceI x).cycleFields = s.cycleFields := by
  rw [advanceI_eq]; rfl

@[simp] theorem State.cycleFields_loadV (s : State) (k : Nat) (bytes : List Byte) :
    (s.loadV k bytes).cycleFields = s.cycleFields := by
  rw [loadV_eq]; rfl

/-- Every instruction but FX15 and FX18, its error branch included, leaves timers, tone and the frame loop's fields. -/
theorem exec_cycleFields {i : Instr} (hdt : ∀ x, i ≠ .ldDtVx x) (hst : ∀ x, i ≠ .ldStVx x) (s : State) :
    ∃ u, exec i s = .next u ∧ u.cycleFields = s.cycleFields := by
  cases i
  case ldDtVx x => exact absurd rfl (hdt x)
  case ldStVx x => exact absurd rfl (hst x)
  case seByte | sneByte | seReg | sneReg | skp | sknp => exact ⟨_, rfl, State.cycleFields_skipIf s _⟩
  case call nnn => obtain ⟨-, h⟩ | ⟨-, h⟩ := execCall_cases nnn s <;> exact ⟨_, h, rfl⟩
  case ret => obtain ⟨-, h⟩ | ⟨_, _, -, h⟩ := execRet_cases s <;> exact ⟨_, h, rfl⟩
  case drw x y n => obtain ⟨-, h⟩ | ⟨-, h⟩ := execDrw_cases x y n s <;> exact ⟨_, h, rfl⟩
  case ldVxK x => obtain ⟨_, -, h⟩ | ⟨-, h⟩ := execLdVxK_cases x s <;> exact ⟨_, h, rfl⟩
  case addI x => obtain ⟨-, h⟩ | ⟨-, h⟩ := execAddI_cases x s <;> exact ⟨_, h, rfl⟩
  case ldB x => obtain ⟨-, h⟩ | ⟨-, h⟩ := execLdB_cases x s <;> exact ⟨_, h, rfl⟩
  case ldMemVx x =>
    obtain ⟨-, h⟩ | ⟨-, h⟩ := execLdMemVx_cases x s
    · exact ⟨_, h, State.cycleFields_advanceI _ x⟩
    · exact ⟨_, h, rfl⟩
  case ldVxMem x =>
    obtain ⟨-, h⟩ | ⟨-, h⟩ := execLdVxMem_cases x s
    · exact ⟨_, h, (State.cycleFields_advanceI _ x).trans (State.cycleFields_loadV s 0 _)⟩
    · exact ⟨_, h, rfl⟩
  -- the remaining meanings are one update each, of none of these components
  all_goals exact ⟨_, rfl, rfl⟩

/-- A word in memory that decodes is executed on the advanced PC. -/
theorem runInstruction_of_decode {s : State} {i : Instr} (hpc : s.pc.toNat < 0xFFF) (hd : decode s.wordAtPc = .ok i) :
    runInstruction s = exec i s.advancePc := by
  simp only [runInstruction, fetch_in hpc, hd]

/-- An instruction run leaves timers, tone and the frame loop's fields, unless the word at PC is an FX15, which sets DT
alone, or an FX18, which sets ST with its tone alone. -/
theorem runInstruction_cases {s t : State} (h : runInstruction s = .next t) :
    (∃ x, decode s.wordAtPc = .ok (.ldDtVx x) ∧ t = { s.advancePc with dt := s.getV x }) ∨
    (∃ x, decode s.wordAtPc = .ok (.ldStVx x) ∧ t = s.advancePc.setST (s.getV x)) ∨
    t.cycleFields = s.cycleFields := by
  by_cases hpc : s.pc.toNat < 0xFFF
  · cases hd : decode s.wordAtPc with
    | error e =>
      cases (runInstruction_of_decode_error hpc hd).symm.trans h
      exact .inr (.inr rfl)
    | ok i =>
      rw [runInstruction_of_decode hpc hd] at h
      by_cases hdt : ∃ x, i = .ldDtVx x
      · obtain ⟨x, rfl⟩ := hdt
        cases h
        exact .inl ⟨x, rfl, rfl⟩
      by_cases hst : ∃ x, i = .ldStVx x
      · obtain ⟨x, rfl⟩ := hst
        cases h
        exact .inr (.inl ⟨x, rfl, rfl⟩)
      obtain ⟨u, hu, hkeep⟩ :=
        exec_cycleFields (fun x hx => hdt ⟨x, hx⟩) (fun x hx => hst ⟨x, hx⟩) s.advancePc
      cases hu.symm.trans h
      exact .inr (.inr hkeep)
  · cases (runInstruction_of_fetch_error (fetch_out (by omega))).symm.trans h
    exact .inr (.inr rfl)

/-- A tick that has an outcome ran its instruction in mode normal (40_cycle.md R116). -/
theorem runInstruction_of_tick {s t : State} (h : tick s = .next t) : runInstruction s.clearRequest = .next t := by
  cases hmode : s.mode with
  | normal => rwa [tick_normal hmode] at h
  | fatal e => simp only [tick, hmode] at h; cases h

/-- Settles O13: each of the three things an instruction can do to these components keeps what R114 says, FX15 and FX18
being named by the word at PC. -/
theorem tickTouchesTimersOnlyByFX15AndFX18 : Obligations.TickTouchesTimersOnlyByFX15AndFX18 := by
  intro s t htick
  obtain ⟨x, hd, rfl⟩ | ⟨x, hd, rfl⟩ | hkeep := runInstruction_cases (runInstruction_of_tick htick)
  · exact ⟨rfl, rfl, rfl, rfl, rfl, rfl, rfl, fun _ => ⟨x, hd⟩, by rintro (h | h | h) <;> exact absurd rfl h⟩
  · exact ⟨rfl, rfl, rfl, rfl, rfl, rfl, rfl, fun h => absurd rfl h, fun _ => ⟨x, hd⟩⟩
  · obtain ⟨hcount, hredraw, hkeys, hticks, hinterval, hoptions, hleft, hdt, hst, htone, hcommands⟩ :=
      CycleFields.mk.inj hkeep
    exact ⟨hcount, hredraw, hkeys, hticks, hinterval, hoptions, hleft, fun h => absurd hdt h,
      by rintro (h | h | h); exacts [absurd hst h, absurd htone h, absurd hcommands h]⟩

end Sys2Proof.Machine

/-! ## Jumps, calls, returns and register skips (41_control.md) -/

namespace Sys2Proof.Machine

/-- zext_16 of a 12-bit address keeps its value. -/
theorem addrOperand_toNat (nnn : Addr) : (addrOperand nnn).toNat = nnn.toNat :=
  BitVec.toNat_setWidth_of_le (by decide)

/-- zext_16 of a register keeps its value. -/
theorem State.zextV_toNat (s : State) (r : Reg) : (s.zextV r).toNat = (s.getV r).toNat :=
  BitVec.toNat_setWidth_of_le (by decide)

/-- The offset jump's sum is exact: 0xFFF + 0xFF fits in 16 bits, so nothing is reduced (R133). -/
theorem State.jumpOffset_toNat (s : State) (nnn : Addr) : (s.jumpOffset nnn).toNat = nnn.toNat + (s.getV 0).toNat := by
  have hnnn : nnn.toNat < 4096 := nnn.isLt
  have hv0 : (s.getV 0).toNat < 256 := (s.getV 0).isLt
  rw [State.jumpOffset, BitVec.toNat_add_of_lt (by rw [addrOperand_toNat, State.zextV_toNat]; omega),
    addrOperand_toNat, State.zextV_toNat]

/-- A skip's effect on PC, by the comparison it tests (R140). -/
theorem next_skipIf_of_iff (s : State) {c : Bool} {p : Prop} [Decidable p] (h : c = true ↔ p) :
    (.next (s.skipIf c) : Result) = .next { s with pc := if p then s.pc + 2 else s.pc } := by
  rw [skipIf_eq]
  simp only [h]

/-- Settles O40: each jump is one update of PC, to an address that fits in 16 bits. -/
theorem jumpsWriteTheirTarget : Obligations.JumpsWriteTheirTarget := by
  intro s nnn
  exact ⟨⟨_, rfl, addrOperand_toNat nnn, rfl, fun _ => rfl⟩, ⟨_, rfl, s.jumpOffset_toNat nnn, rfl, fun _ => rfl⟩⟩

/-- Settles O41: the two cases of CALL, told apart by whether the stack is at its limit. -/
theorem callPushesThenJumps : Obligations.CallPushesThenJumps := by
  intro s nnn
  obtain ⟨hfull, hexec⟩ | ⟨hroom, hexec⟩ := execCall_cases nnn s
  · exact ⟨absurd hfull, fun _ => ⟨_, hexec, raise_entersFatal s _ _⟩⟩
  · exact ⟨fun _ => ⟨_, hexec, rfl, addrOperand_toNat nnn, rfl, fun _ => rfl⟩, fun hfull => absurd hfull hroom⟩

/-- Settles O42: the two cases of RET, told apart by whether the stack is empty. -/
theorem retPopsIntoPc : Obligations.RetPopsIntoPc := by
  refine ⟨fun s a rest hstack => ?_, fun s hempty => ?_⟩
  · obtain ⟨hempty, -⟩ | ⟨b, rest', htop, hexec⟩ := execRet_cases s
    · cases hempty.symm.trans hstack
    · cases htop.symm.trans hstack
      exact hexec
  · obtain ⟨-, hexec⟩ | ⟨b, rest', htop, -⟩ := execRet_cases s
    · exact ⟨_, hexec, raise_entersFatal s _ _⟩
    · cases hempty.symm.trans htop

/-- Settles O44: each skip is `skipIf` of its comparison as a Bool. -/
theorem registerSkipsAddTwo : Obligations.RegisterSkipsAddTwo := by
  intro s x y nn
  exact ⟨next_skipIf_of_iff s beq_iff_eq, next_skipIf_of_iff s bne_iff_ne, next_skipIf_of_iff s beq_iff_eq,
    next_skipIf_of_iff s bne_iff_ne⟩

end Sys2Proof.Machine

/-! ## Register loads, arithmetic, logic, shifts and RND (42_alu.md) -/

namespace Sys2Proof.Machine

/-! ### The two register updates of these instructions -/

/-- One register write is the whole effect of LD, ADD byte, OR, AND and XOR (R152 to R157). -/
theorem setV_writesOnly (s : State) (x : Reg) (u : Byte) : WritesOnly s (s.setV x u) x u := by
  refine ⟨?_, fun r hr => ?_, setV_eq s x u, fun _ => rfl⟩
  · rw [getV_setV, if_pos rfl]
  · rw [getV_setV, if_neg hr]

/-- The result first and the flag last, which wins where X is F (R151), is the whole effect of the flag writers. -/
theorem setResultFlag_writesResultAndFlag (s : State) (x : Reg) (u : Byte) (f : Bool) :
    WritesResultAndFlag s (s.setResultFlag x u f) x u f := by
  refine ⟨?_, fun hx => ?_, fun r hrx hr15 => ?_, setResultFlag_eq s x u f, fun _ => rfl⟩
  · rw [getV_setResultFlag, if_pos rfl]
  · rw [getV_setResultFlag, if_neg hx, if_pos rfl]
  · rw [getV_setResultFlag, if_neg hr15, if_neg hrx]

/-! ### The bytes and flags written, as arithmetic on naturals -/

theorem byte_add_eq (a b : Byte) : a + b = BitVec.ofNat 8 ((a.toNat + b.toNat) % 256) := by
  bv_omega

theorem byte_sub_eq (a b : Byte) : a - b = BitVec.ofNat 8 ((a.toNat + 256 - b.toNat) % 256) := by
  bv_omega

theorem byte_ushiftRight_one_eq (a : Byte) : a >>> 1 = BitVec.ofNat 8 (a.toNat / 2) := by
  bv_omega

theorem byte_shiftLeft_one_eq (a : Byte) : a <<< 1 = BitVec.ofNat 8 (a.toNat * 2 % 256) := by
  bv_omega

/-- Bit 0 is the number's parity. -/
theorem shiftedOutRight_eq (a : Byte) : shiftedOutRight a = decide (a.toNat % 2 = 1) :=
  Nat.testBit_zero a.toNat

/-- Bit 7 is the top bit of a byte, set from 128 on. -/
theorem shiftedOutLeft_eq (a : Byte) : shiftedOutLeft a = decide (a.toNat ≥ 128) :=
  (BitVec.msb_eq_getLsbD_last a).symm.trans (BitVec.msb_eq_decide a)

/-! ### The obligations -/

/-- Settles O35: each of the six is one register write, and only ADD's byte needs its value as a natural. -/
theorem loadsAndLogicWriteVxOnly : Obligations.LoadsAndLogicWriteVxOnly := by
  intro s x y nn
  refine ⟨⟨_, rfl, setV_writesOnly s x _⟩, ⟨_, rfl, ?_⟩, ⟨_, rfl, setV_writesOnly s x _⟩,
    ⟨_, rfl, setV_writesOnly s x _⟩, ⟨_, rfl, setV_writesOnly s x _⟩, ⟨_, rfl, setV_writesOnly s x _⟩⟩
  rw [← byte_add_eq]
  exact setV_writesOnly s x _

/-- Settles O36: `carry` is the comparison of the unreduced sum with 255. -/
theorem addWritesSumAndCarry : Obligations.AddWritesSumAndCarry := by
  intro s x y
  refine ⟨_, rfl, ?_⟩
  rw [← byte_add_eq]
  exact setResultFlag_writesResultAndFlag s x _ (carry (s.getV x) (s.getV y))

/-- Settles O37: SUB and SUBN are one subtraction with the operands exchanged, and `minuendGreater` is strict. -/
theorem subtractsWriteDifferenceAndStrictFlag : Obligations.SubtractsWriteDifferenceAndStrictFlag := by
  intro s x y
  refine ⟨⟨_, rfl, ?_⟩, ⟨_, rfl, ?_⟩⟩
  · rw [← byte_sub_eq]
    exact setResultFlag_writesResultAndFlag s x _ (minuendGreater (s.getV x) (s.getV y))
  · rw [← byte_sub_eq]
    exact setResultFlag_writesResultAndFlag s x _ (minuendGreater (s.getV y) (s.getV x))

/-- Settles O38: a shift by one halves or doubles `V[Y]`, and the bit it shifts out is `V[Y]`'s parity or top bit. -/
theorem shiftsWriteShiftedVyAndBitOut : Obligations.ShiftsWriteShiftedVyAndBitOut := by
  intro s x y
  refine ⟨⟨_, rfl, ?_⟩, ⟨_, rfl, ?_⟩⟩
  · rw [← byte_ushiftRight_one_eq, ← shiftedOutRight_eq]
    exact setResultFlag_writesResultAndFlag s x _ _
  · rw [← byte_shiftLeft_one_eq, ← shiftedOutLeft_eq]
    exact setResultFlag_writesResultAndFlag s x _ _

/-- Settles O39: RND is one register write of the masked draw, beside which only the draw counter moves. -/
theorem rndWritesAMaskedDraw : Obligations.RndWritesAMaskedDraw := by
  intro s x nn
  obtain ⟨hx, hother, -, hmem⟩ := setV_writesOnly s x (Config.draw s.draws &&& nn)
  exact ⟨_, rfl, hx, hother, rfl, rfl, hmem⟩

end Sys2Proof.Machine

/-! ## I, and memory reached through I (43_index_memory.md) -/

namespace Sys2Proof.Machine

/-! ### I after its writers -/

/-- The glyph address is exact: 0x050 + 5 * 0xFF fits in 16 bits, so `V[X]` counts whole (R182). -/
theorem State.glyphAddr_toNat (s : State) (x : Reg) : (s.glyphAddr x).toNat = 0x050 + 5 * (s.getV x).toNat := by
  have hvx : (s.getV x).toNat < 256 := (s.getV x).isLt
  exact Nat.mod_eq_of_lt (by simp only [Config.fontBase, Config.glyphSize]; omega)

/-- ADD I's sum, as the natural sum mod 2^16 (R181). -/
theorem State.i_add_zextV_toNat (s : State) (x : Reg) :
    (s.i + s.zextV x).toNat = (s.i.toNat + (s.getV x).toNat) % 65536 := by
  rw [BitVec.toNat_add, State.zextV_toNat]

/-- After an access inside memory I's increment does not wrap (R184, R185). -/
theorem State.advanceI_i_toNat {s : State} {x : Reg} (h : s.indexAddr + x.val < 4096) :
    (s.advanceI x).i.toNat = if s.options.loadStoreIncrementsI then s.indexAddr + x.val + 1 else s.indexAddr := by
  have hsum : (s.i + BitVec.ofNat 16 (x.val + 1)).toNat = s.indexAddr + x.val + 1 := by
    unfold State.indexAddr at h ⊢
    bv_omega
  rw [advanceI_eq, ← hsum]
  exact apply_ite BitVec.toNat _ _ _

/-! ### What I's increment and a register load leave unchanged -/

@[simp] theorem State.getV_advanceI (s : State) (x r : Reg) : (s.advanceI x).getV r = s.getV r := by
  simp only [State.getV, State.advanceI_v]

@[simp] theorem State.loadV_mem (s : State) (k : Nat) (bytes : List Byte) : (s.loadV k bytes).mem = s.mem := by
  rw [loadV_eq]

/-- A load after which I is advanced changes V and I only. -/
theorem loadV_advanceI_eq (s : State) (k : Nat) (bytes : List Byte) (x : Reg) :
    (s.loadV k bytes).advanceI x =
      { s with v := ((s.loadV k bytes).advanceI x).v, i := ((s.loadV k bytes).advanceI x).i } := by
  rw [advanceI_eq, loadV_eq]

/-! ### The bytes after a store, and the registers after a load -/

/-- The three bytes of LD B, Vx are the decimal digits, each less than 10. -/
theorem byteAfterBcd_digits (s : State) (x : Reg) :
    (byteAfterBcd s x s.indexAddr).toNat = (s.getV x).toNat / 100 ∧
    (byteAfterBcd s x (s.indexAddr + 1)).toNat = (s.getV x).toNat / 10 % 10 ∧
    (byteAfterBcd s x (s.indexAddr + 2)).toNat = (s.getV x).toNat % 10 := by
  have hvx : (s.getV x).toNat < 256 := (s.getV x).isLt
  refine ⟨?_, ?_, ?_⟩
  · rw [byteAfterBcd, if_pos rfl]
    exact Nat.mod_eq_of_lt (by omega)
  · rw [byteAfterBcd, if_neg (by omega), if_pos rfl]
    exact Nat.mod_eq_of_lt (by omega)
  · rw [byteAfterBcd, if_neg (by omega), if_neg (by omega), if_pos rfl]
    exact Nat.mod_eq_of_lt (by omega)

theorem byteAfterBcd_outside {s : State} {a : Nat} (x : Reg) (h : a < s.indexAddr ∨ s.indexAddr + 3 ≤ a) :
    byteAfterBcd s x a = s.mem.read a := by
  rw [byteAfterBcd, if_neg (by omega), if_neg (by omega), if_neg (by omega)]

theorem byteAfterDump_register (s : State) {x r : Reg} (h : r.val ≤ x.val) :
    byteAfterDump s x (s.indexAddr + r.val) = s.getV r := by
  rw [byteAfterDump, dif_pos (by omega)]
  exact congrArg s.getV (Fin.ext (by simp))

theorem byteAfterDump_outside {s : State} {a : Nat} {x : Reg} (h : a < s.indexAddr ∨ s.indexAddr + x.val + 1 ≤ a) :
    byteAfterDump s x a = s.mem.read a := by
  rw [byteAfterDump, dif_neg (by omega)]

/-- V0 to `V[X]` are the bytes read from `a` on, the registers after X stand as before. -/
theorem getV_loadV_readBytes (s : State) (a : Nat) (x r : Reg) :
    (s.loadV 0 (s.mem.readBytes a (x.val + 1))).getV r =
      if r.val ≤ x.val then s.mem.read (a + r.val) else s.getV r := by
  rw [getV_loadV s 0 _ r (by rw [Memory.length_readBytes]; omega)]
  by_cases hr : r.val ≤ x.val
  · rw [dif_pos (by rw [Memory.length_readBytes]; omega), if_pos hr]
    exact Memory.getElem_readBytes s.mem (by omega)
  · rw [dif_neg (by rw [Memory.length_readBytes]; omega), if_neg hr]

/-! ### The obligations -/

/-- Settles O49: each load is one update of I, to a value that fits in 16 bits. -/
theorem indexLoads : Obligations.IndexLoads := by
  intro s x nnn
  exact ⟨⟨_, rfl, addrOperand_toNat nnn, rfl, fun _ => rfl⟩, ⟨_, rfl, s.glyphAddr_toNat x, rfl, fun _ => rfl⟩⟩

/-- Settles O50: the two cases of ADD I, Vx are the obligation's own, and they exclude each other. -/
theorem addIndexWrapsOrRaises : Obligations.AddIndexWrapsOrRaises := by
  intro s x
  have hexclusive : (s.options.indexWrap = .wrap16 ∨ s.i.toNat + (s.getV x).toNat ≤ 0xFFFF) →
      s.options.indexWrap = .fault → ¬ 0xFFFF < s.i.toNat + (s.getV x).toNat := by
    rintro (hwrap | hle) hfault
    · cases hwrap.symm.trans hfault
    · exact hle.not_gt
  obtain ⟨hin, hexec⟩ | ⟨⟨hfault, hout⟩, hexec⟩ := execAddI_cases x s
  · exact ⟨fun _ => ⟨_, hexec, s.i_add_zextV_toNat x, rfl, fun _ => rfl⟩,
      fun hfault hout => absurd hout (hexclusive hin hfault)⟩
  · exact ⟨fun hin => absurd hout (hexclusive hin hfault), fun _ _ => ⟨_, hexec, raise_entersFatal s _ _⟩⟩

/-- Settles O51: every byte after the store is `byteAfterBcd`. -/
theorem bcdStoresThreeDigits : Obligations.BcdStoresThreeDigits := by
  intro s x hcanonical
  obtain ⟨hin, hexec⟩ | ⟨hout, hexec⟩ := execLdB_cases x s
  · refine ⟨fun hlt => ⟨_, hexec, rfl, ?_⟩, fun hge => by omega⟩
    simp only [read_writeBytes_bcd x hcanonical hlt]
    obtain ⟨hhundreds, htens, hones⟩ := byteAfterBcd_digits s x
    exact ⟨hhundreds, htens, hones, fun a ha => byteAfterBcd_outside x ha⟩
  · exact ⟨fun hlt => by omega, fun _ => ⟨_, hexec, raise_entersFatal s _ _⟩⟩

/-- Settles O52: every byte after the store is `byteAfterDump`, and I is advanced without a wrap. -/
theorem dumpStoresRegisters : Obligations.DumpStoresRegisters := by
  intro s x hcanonical
  obtain ⟨hin, hexec⟩ | ⟨hout, hexec⟩ := execLdMemVx_cases x s
  · refine ⟨fun hlt => ⟨_, hexec, by rw [advanceI_eq], ?_⟩, fun hge => by omega⟩
    simp only [State.advanceI_mem, read_writeBytes_dump x hcanonical hlt]
    exact ⟨fun r hr => byteAfterDump_register s hr, fun a ha => byteAfterDump_outside ha,
      State.advanceI_i_toNat (s := { s with mem := s.mem.writeBytes s.indexAddr (s.dumpV x) }) hlt⟩
  · exact ⟨fun hlt => by omega, fun _ => ⟨_, hexec, raise_entersFatal s _ _⟩⟩

/-- Settles O53: the registers after the load are those of `getV_loadV_readBytes`, which I's increment does not touch. -/
theorem loadReadsRegisters : Obligations.LoadReadsRegisters := by
  intro s x
  obtain ⟨hin, hexec⟩ | ⟨hout, hexec⟩ := execLdVxMem_cases x s
  · refine ⟨fun hlt => ⟨_, hexec, loadV_advanceI_eq s _ _ x, fun r hr => ?_, fun r hr => ?_, fun a => ?_, ?_⟩,
      fun hge => by omega⟩
    · rw [State.getV_advanceI, getV_loadV_readBytes, if_pos hr]
    · rw [State.getV_advanceI, getV_loadV_readBytes, if_neg (by omega)]
    · rw [State.advanceI_mem, State.loadV_mem]
    · rw [loadV_eq]
      exact State.advanceI_i_toNat hlt
  · exact ⟨fun hlt => by omega, fun _ => ⟨_, hexec, raise_entersFatal s _ _⟩⟩

end Sys2Proof.Machine

/-! ## The display: CLS, and DRW's loops as one toggle under a mask (44_display.md R200 to R203) -/

namespace Sys2Proof.Machine

/-- Settles O56: CLS is one update of the display and the redraw request. -/
theorem clsClearsEveryCell : Obligations.ClsClearsEveryCell := by
  intro s
  exact ⟨_, rfl, cell_clear, rfl, rfl, fun _ => rfl⟩

/-! ### Toggling a canvas under a mask -/

/-- The mask `m` covers a cell of the grid that is on in `d`. -/
def MaskHits (d : Display) (m : Nat → Nat → Bool) : Prop :=
  ∃ px py, px < 64 ∧ py < 32 ∧ d.cell px py = true ∧ m px py = true

/-- `c'` is `c` with the cells of the grid under the mask toggled, and the collision flag raised where one of them was
on. Each loop of R202 does this, with a mask of its own. -/
structure Canvas.Toggles (m : Nat → Nat → Bool) (c c' : Canvas) : Prop where
  cell : ∀ px py, px < 64 → py < 32 → c'.disp.cell px py = (c.disp.cell px py ^^ m px py)
  collision : c'.collision = true ↔ c.collision = true ∨ MaskHits c.disp m

/-- A mask with no cell of the grid changes nothing. -/
theorem Canvas.Toggles.of_no_cell {m : Nat → Nat → Bool} (c : Canvas)
    (h : ∀ px py, px < 64 → py < 32 → m px py = false) : Canvas.Toggles m c c := by
  have hno : ¬ MaskHits c.disp m := fun ⟨px, py, hpx, hpy, _, hm⟩ => absurd hm (by simp [h px py hpx hpy])
  exact ⟨fun px py hpx hpy => by rw [h px py hpx hpy, Bool.xor_false], by simp [hno]⟩

/-- One mask after another toggles their union where they have no cell in common: the second one then finds its cells
as the first one found them. -/
theorem Canvas.Toggles.trans {m m₁ m₂ : Nat → Nat → Bool} {c c₁ c₂ : Canvas} (h₁ : Canvas.Toggles m₁ c c₁)
    (h₂ : Canvas.Toggles m₂ c₁ c₂) (hunion : ∀ px py, m px py = (m₁ px py || m₂ px py))
    (hdisjoint : ∀ px py, m₂ px py = true → m₁ px py = false) : Canvas.Toggles m c c₂ := by
  have hcell (px py) (hpx : px < 64) (hpy : py < 32) (hm : m₂ px py = true) :
      c₁.disp.cell px py = c.disp.cell px py := by
    rw [h₁.cell px py hpx hpy, hdisjoint px py hm, Bool.xor_false]
  refine ⟨fun px py hpx hpy => ?_, ?_⟩
  · rw [h₂.cell px py hpx hpy, h₁.cell px py hpx hpy, hunion]
    cases hm : m₂ px py with
    | false => simp
    | true => simp [hdisjoint px py hm]
  · rw [h₂.collision, h₁.collision, or_assoc]
    refine or_congr_right ⟨?_, ?_⟩
    · rintro (⟨px, py, hpx, hpy, hon, hm⟩ | ⟨px, py, hpx, hpy, hon, hm⟩)
      · exact ⟨px, py, hpx, hpy, hon, by simp [hunion, hm]⟩
      · exact ⟨px, py, hpx, hpy, hcell px py hpx hpy hm ▸ hon, by simp [hunion, hm]⟩
    · rintro ⟨px, py, hpx, hpy, hon, hm⟩
      cases hm₂ : m₂ px py with
      | false => exact .inl ⟨px, py, hpx, hpy, hon, by simpa [hunion, hm₂] using hm⟩
      | true => exact .inr ⟨px, py, hpx, hpy, (hcell px py hpx hpy hm₂).trans hon, hm₂⟩

/-! ### The masks of a bit, of a row and of the rows in memory -/

/-- The mask of column offset `b` of a row. -/
def bitMask (x0 y : Nat) (row : Byte) (b px py : Nat) : Bool :=
  decide (px = x0 + b ∧ py = y) && row.getLsbD (7 - b)

/-- The mask of a row's first `k` columns. -/
def rowMask (x0 y : Nat) (row : Byte) (k px py : Nat) : Bool :=
  decide (x0 ≤ px ∧ px < x0 + k ∧ py = y) && row.getLsbD (7 - (px - x0))

/-- The mask of the `n` rows that stand in memory from `a` on; `spriteBit` is the one from I on. -/
def rowsMask (mem : Memory) (a x0 y n px py : Nat) : Bool :=
  decide (x0 ≤ px ∧ px < x0 + 8 ∧ y ≤ py ∧ py < y + n) && (mem.read (a + (py - y))).getLsbD (7 - (px - x0))

theorem rowMask_succ (x0 y : Nat) (row : Byte) (k px py : Nat) :
    rowMask x0 y row (k + 1) px py = (rowMask x0 y row k px py || bitMask x0 y row k px py) := by
  unfold rowMask bitMask
  by_cases hpx : px = x0 + k
  · subst hpx; simp
  · have hcols : (x0 ≤ px ∧ px < x0 + (k + 1) ∧ py = y) ↔ (x0 ≤ px ∧ px < x0 + k ∧ py = y) := by omega
    simp [hcols, hpx]

theorem rowMask_eq_false_of_bitMask {x0 y k px py : Nat} {row : Byte} (h : bitMask x0 y row k px py = true) :
    rowMask x0 y row k px py = false := by
  simp only [bitMask, Bool.and_eq_true, decide_eq_true_eq] at h
  simp [rowMask, h]

theorem rowsMask_succ (mem : Memory) (a x0 y n px py : Nat) :
    rowsMask mem a x0 y (n + 1) px py =
      (rowMask x0 y (mem.read a) 8 px py || rowsMask mem (a + 1) x0 (y + 1) n px py) := by
  unfold rowsMask rowMask
  by_cases hpy : py = y
  · subst hpy; simp
  · have hrows : (x0 ≤ px ∧ px < x0 + 8 ∧ y ≤ py ∧ py < y + (n + 1)) ↔
        (x0 ≤ px ∧ px < x0 + 8 ∧ y + 1 ≤ py ∧ py < y + 1 + n) := by omega
    by_cases hbelow : y + 1 ≤ py
    · simp [hpy, hrows, show a + (py - y) = a + 1 + (py - (y + 1)) by omega]
    · simp [hpy, hrows, hbelow]

theorem rowMask_eq_false_of_rowsMask {mem : Memory} {a x0 y n px py k : Nat} {row : Byte}
    (h : rowsMask mem a x0 (y + 1) n px py = true) : rowMask x0 y row k px py = false := by
  simp only [rowsMask, Bool.and_eq_true, decide_eq_true_eq] at h
  simp [rowMask, show py ≠ y by omega]

/-! ### The loops of R202, from the inside out -/

/-- A set bit that is visible toggles its one cell. -/
theorem Canvas.Toggles.of_one_cell {m : Nat → Nat → Bool} {x y : Nat} (c : Canvas) (hx : x < 64) (hy : y < 32)
    (hm : ∀ px py, m px py = decide (px = x ∧ py = y)) :
    Canvas.Toggles m c { disp := c.disp.toggle x y, collision := c.collision || c.disp.cell x y } := by
  refine ⟨fun px py _ _ => ?_, ?_⟩
  · rw [cell_toggle c.disp hx hy, hm]
    by_cases hp : px = x ∧ py = y
    · rw [if_pos hp, hp.1, hp.2]; simp
    · rw [if_neg hp]; simp [hp]
  · rw [Bool.or_eq_true]
    refine or_congr_right ⟨fun hon => ⟨x, y, hx, hy, hon, by simp [hm]⟩, ?_⟩
    rintro ⟨px, py, -, -, hon, hp⟩
    obtain ⟨rfl, rfl⟩ : px = x ∧ py = y := by simpa [hm] using hp
    exact hon

theorem drawBit_toggles (x0 : Nat) {y : Nat} (row : Byte) (c : Canvas) (b : Nat) (hy : y < 32) :
    Canvas.Toggles (bitMask x0 y row b) c (Canvas.drawBit x0 y row c b) := by
  by_cases hout : 64 ≤ x0 + b ∨ row.getLsbD (7 - b) = false
  · rw [drawBit_out hout]
    refine .of_no_cell c fun px py hpx _ => ?_
    obtain hclipped | hzero := hout
    · simp [bitMask, show px ≠ x0 + b by omega]
    · simp [bitMask, hzero]
  · obtain ⟨hx, hset⟩ := not_or.mp hout
    have hb : row.getLsbD (7 - b) = true := eq_true_of_ne_false hset
    rw [drawBit_in (by omega) hb]
    exact .of_one_cell c (by omega) hy fun px py => by rw [bitMask, hb, Bool.and_true]

theorem drawBits_toggles (x0 : Nat) {y : Nat} (row : Byte) (c : Canvas) (k : Nat) (hy : y < 32) :
    Canvas.Toggles (rowMask x0 y row k) c ((List.range k).foldl (Canvas.drawBit x0 y row) c) := by
  induction k with
  | zero => exact .of_no_cell c fun px py _ _ => by rw [rowMask, decide_eq_false (by omega), Bool.false_and]
  | succ k ih =>
    rw [List.range_succ, List.foldl_append]
    exact ih.trans (drawBit_toggles x0 row _ k hy) (rowMask_succ x0 y row k) fun _ _ => rowMask_eq_false_of_bitMask

theorem drawRow_toggles (x0 y : Nat) (row : Byte) (c : Canvas) :
    Canvas.Toggles (rowMask x0 y row 8) c (Canvas.drawRow x0 y row c) := by
  unfold Canvas.drawRow
  split
  · next hclipped => exact .of_no_cell c fun px py _ hpy => by simp [rowMask, show py ≠ y by omega]
  · next hvisible => exact drawBits_toggles x0 row c 8 (by omega)

theorem drawRows_toggles (mem : Memory) (a x0 y n : Nat) (c : Canvas) :
    Canvas.Toggles (rowsMask mem a x0 y n) c (Canvas.drawRows x0 y (mem.readBytes a n) c) := by
  induction n generalizing a y c with
  | zero => exact .of_no_cell c fun px py _ _ => by rw [rowsMask, decide_eq_false (by omega), Bool.false_and]
  | succ n ih =>
    exact (drawRow_toggles x0 y (mem.read a) c).trans (ih (a + 1) (y + 1) _) (rowsMask_succ mem a x0 y n)
      fun _ _ => rowMask_eq_false_of_rowsMask

/-! ### DRW -/

/-- The whole sprite at I toggles the canvas under `spriteBit`. -/
theorem spriteRows_toggles (s : State) (x0 y0 n : Nat) (c : Canvas) :
    Canvas.Toggles (spriteBit s x0 y0 n) c (Canvas.drawRows x0 y0 (s.mem.readBytes s.indexAddr n) c) :=
  drawRows_toggles s.mem s.i.toNat x0 y0 n c

/-- DRW writes VF last and no other register. -/
theorem State.getV_drawSprite (s : State) (x y : Reg) (rows : List Byte) (r : Reg) :
    (s.drawSprite x y rows).getV r =
      if r = 15 then
        (if (Canvas.drawRows (s.spriteX x) (s.spriteY y) rows { disp := s.disp, collision := false }).collision
          then 1 else 0)
      else s.getV r :=
  getV_setFlag s r _

/-- The byte a flag is written as is 1 exactly where the flag is set. -/
theorem flagByte_eq_one (f : Bool) : (if f then 1 else 0 : Byte) = 1 ↔ f = true := by
  cases f <;> decide

/-- Settles O57: the drawn canvas is the display toggled under `spriteBit`, and VF is its collision flag. -/
theorem drawTogglesExactlyTheSpriteBits : Obligations.DrawTogglesExactlyTheSpriteBits := by
  intro s x y n
  have htoggles := spriteRows_toggles s (s.spriteX x) (s.spriteY y) n { disp := s.disp, collision := false }
  obtain ⟨hin, hexec⟩ | ⟨⟨hpos, hout⟩, hexec⟩ := execDrw_cases x y n s
  · refine ⟨fun _ => ⟨_, hexec, htoggles.cell, ?_, ?_, fun r hr => ?_, rfl, rfl, fun _ => rfl⟩,
      fun hpos hout => absurd hin (by unfold State.indexAddr; omega)⟩
    · rw [State.getV_drawSprite, if_pos rfl]
      exact ite_eq_or_eq _ _ _
    · rw [State.getV_drawSprite, if_pos rfl]
      exact (flagByte_eq_one _).trans (htoggles.collision.trans (or_iff_right Bool.false_ne_true))
    · rw [State.getV_drawSprite, if_neg hr]
  · exact ⟨fun hin => absurd hin (by unfold State.indexAddr at hout; omega),
      fun _ _ => ⟨_, hexec, raise_entersFatal s _ _⟩⟩

end Sys2Proof.Machine

/-! ## Key input and the timers' instructions (45_input_timers.md) -/

namespace Sys2Proof.Machine

/-! ### The pressed keys, as the statements say them -/

/-- The membership test of SKP and SKNP is `KeyPressed` of the whole register (R220, R221). -/
theorem has_iff_keyPressed (s : State) (u : Byte) : s.keys.has u = true ↔ KeyPressed s u := has_eq_true s.keys u

/-- The pressed keys are one key exactly where it is the only one pressed (R222). -/
theorem pressed_iff_onlyKeyPressed (s : State) (k : Fin 16) : s.keys.pressed = [k] ↔ OnlyKeyPressed s k :=
  pressed_eq_singleton s.keys k

/-- SKP and SKNP, by the answer of the membership test: they skip on opposite answers. -/
theorem exec_keySkips_of_has {s : State} {x : Reg} {pressed : Bool} (h : s.keys.has (s.getV x) = pressed) :
    exec (.skp x) s = .next (s.skipIf pressed) ∧ exec (.sknp x) s = .next (s.skipIf (!pressed)) := by
  subst h
  exact ⟨rfl, rfl⟩

/-! ### The tone command of a transition (R225) -/

theorem toneTransition_start {old new : Byte} (hold : old = 0) (hnew : new ≠ 0) : toneTransition old new = [.start] :=
  if_pos ⟨hold, hnew⟩

theorem toneTransition_stop {old new : Byte} (hold : old ≠ 0) (hnew : new = 0) : toneTransition old new = [.stop] := by
  rw [toneTransition, if_neg fun h => hold h.1, if_pos ⟨hold, hnew⟩]

/-- No command where ST stays zero or stays nonzero. -/
theorem toneTransition_none {old new : Byte} (h : old = 0 ↔ new = 0) : toneTransition old new = [] := by
  rw [toneTransition, if_neg fun hstart => hstart.2 (h.mp hstart.1), if_neg fun hstop => hstop.1 (h.mpr hstop.2)]

/-! ### The obligations -/

/-- Settles O46: the two cases of LD Vx, K, told apart by whether the pressed keys are one key. -/
theorem waitForKeyTakesExactlyOneKey : Obligations.WaitForKeyTakesExactlyOneKey := by
  intro s x
  obtain ⟨k, hpressed, hexec⟩ | ⟨hnotOne, hexec⟩ := execLdVxK_cases x s
  · refine ⟨fun j honly => ?_, fun hnone => absurd ⟨k, (pressed_iff_onlyKeyPressed s k).mp hpressed⟩ hnone⟩
    obtain rfl : k = j := List.singleton_inj.mp (hpressed.symm.trans ((pressed_iff_onlyKeyPressed s j).mpr honly))
    exact ⟨_, hexec, setV_writesOnly s x _⟩
  · exact ⟨fun j honly => absurd ((pressed_iff_onlyKeyPressed s j).mpr honly) (hnotOne j), fun _ => hexec⟩

/-- Settles O45: both skips follow the membership test, true where the register is a pressed key. -/
theorem keySkipsTestTheWholeRegister : Obligations.KeySkipsTestTheWholeRegister := by
  intro s x
  refine ⟨fun hpressed => ?_, fun hreleased => ?_⟩
  · exact exec_keySkips_of_has ((has_iff_keyPressed s _).mpr hpressed)
  · exact exec_keySkips_of_has (eq_false_of_ne_true (mt (has_iff_keyPressed s _).mp hreleased))

/-- Settles O47: the read is one register write, the write one update of DT. -/
theorem delayTimerMoves : Obligations.DelayTimerMoves := by
  intro s x
  exact ⟨⟨_, rfl, setV_writesOnly s x s.dt⟩, rfl⟩

/-- Settles O48: LD ST is `setST`, whose emitted command is `toneTransition` from the old ST to `V[X]`. -/
theorem soundTimerEmitsOnTransitions : Obligations.SoundTimerEmitsOnTransitions := by
  intro s x
  refine ⟨s.setST (s.getV x), rfl, rfl, rfl, fun hold hnew => ?_, fun hold hnew => ?_, fun hsame => ?_, rfl,
    fun _ => rfl⟩
  · rw [State.setST_toneCommands, toneTransition_start hold hnew]
  · rw [State.setST_toneCommands, toneTransition_stop hold hnew]
  · rw [State.setST_toneCommands, toneTransition_none hsame, List.append_nil]

end Sys2Proof.Machine

/-! ## Errors: what the execute phase and the tick raise, and the timer update (60_exceptions.md R241 to R250) -/

namespace Sys2Proof.Machine

/-- Settles O16: both timers are `countDown`, whose tone transition is the stop exactly where ST goes from 1 to 0. -/
theorem timerUpdateCountsDown : Obligations.TimerUpdateCountsDown := by
  intro s
  refine ⟨countDown_toNat s.dt, countDown_toNat s.st, rfl, ?_, rfl⟩
  rw [State.timerUpdate_toneCommands, toneTransition_countDown]

/-- The execute phase against the tables of R241 to R244: no error listed and the mode kept, or the listed error raised
at the instruction's own address. -/
theorem exec_error_cases (i : Instr) (s : State) :
    (executeError i s = none ∧ ∃ t, exec i s = .next t ∧ t.mode = s.mode) ∨
    (∃ e, executeError i s = some e ∧ exec i s = .next (s.raise e s.instrAddr)) := by
  cases i
  case ret =>
    obtain ⟨hempty, h⟩ | ⟨_, _, htop, h⟩ := execRet_cases s
    · exact .inr ⟨_, if_pos hempty, h⟩
    · exact .inl ⟨if_neg (by simp [htop]), _, h, rfl⟩
  case call nnn =>
    obtain ⟨hfull, h⟩ | ⟨hroom, h⟩ := execCall_cases nnn s
    · exact .inr ⟨_, if_pos hfull, h⟩
    · exact .inl ⟨if_neg hroom, _, h, rfl⟩
  case drw x y n =>
    obtain ⟨hin, h⟩ | ⟨⟨hpos, hout⟩, h⟩ := execDrw_cases x y n s <;> unfold State.indexAddr at *
    · exact .inl ⟨if_neg (by omega), _, h, rfl⟩
    · exact .inr ⟨_, if_pos ⟨hpos, by omega⟩, h⟩
  case addI x =>
    obtain ⟨hin, h⟩ | ⟨hout, h⟩ := execAddI_cases x s
    · refine .inl ⟨if_neg fun ⟨hfault, hover⟩ => ?_, _, h, rfl⟩
      obtain hwrap | hle := hin
      · cases hwrap.symm.trans hfault
      · exact hle.not_gt hover
    · exact .inr ⟨_, if_pos hout, h⟩
  case ldB x =>
    obtain ⟨hin, h⟩ | ⟨hout, h⟩ := execLdB_cases x s <;> unfold State.indexAddr at *
    · exact .inl ⟨if_neg (by omega), _, h, rfl⟩
    · exact .inr ⟨_, if_pos (by omega), h⟩
  case ldMemVx x =>
    obtain ⟨hin, h⟩ | ⟨hout, h⟩ := execLdMemVx_cases x s
    · exact .inl ⟨if_neg hin.not_ge, _, h, State.advanceI_mode _ x⟩
    · exact .inr ⟨_, if_pos hout, h⟩
  case ldVxMem x =>
    obtain ⟨hin, h⟩ | ⟨hout, h⟩ := execLdVxMem_cases x s
    · exact .inl ⟨if_neg hin.not_ge, _, h, by rw [State.advanceI_mode, loadV_eq]⟩
    · exact .inr ⟨_, if_pos hout, h⟩
  -- no other instruction has an entry in the tables; those that branch keep the mode on both sides
  case ldVxK x => obtain ⟨_, -, h⟩ | ⟨-, h⟩ := execLdVxK_cases x s <;> exact .inl ⟨rfl, _, h, rfl⟩
  case seByte | sneByte | seReg | sneReg | skp | sknp => exact .inl ⟨rfl, _, rfl, State.skipIf_mode s _⟩
  all_goals exact .inl ⟨rfl, _, rfl, rfl⟩

/-- Settles O9: the two cases of the execute phase are the two cases of the tables. -/
theorem executeFailsExactlyAsListed : Obligations.ExecuteFailsExactlyAsListed := by
  intro i s
  obtain ⟨hnone, t, hexec, hmode⟩ | ⟨e, hsome, hexec⟩ := exec_error_cases i s
  · exact ⟨t, hexec, by rw [hnone]; exact hmode⟩
  · exact ⟨_, hexec, by rw [hsome]; exact raise_entersFatal s e s.instrAddr⟩

/-- In the execute phase the default advance is undone: the error is raised at the address fetched from (R247). -/
@[simp] theorem State.instrAddr_advancePc (s : State) : s.advancePc.instrAddr = s.pc := BitVec.add_sub_cancel s.pc 2

/-- An instruction run from fetch to execute: the first error in the order of R245 raised at the address fetched from, or
none listed and the mode kept. -/
theorem runInstruction_error_cases (s : State) :
    (tickError s = none ∧ ∃ t, runInstruction s = .next t ∧ t.mode = s.mode) ∨
    (∃ e, tickError s = some e ∧ runInstruction s = .next (s.raise e s.pc)) := by
  unfold tickError
  by_cases hpc : s.pc.toNat < 0xFFF
  · rw [if_neg (by omega)]
    cases hdecode : decode s.wordAtPc with
    | error e => exact .inr ⟨_, rfl, runInstruction_of_decode_error hpc hdecode⟩
    | ok i =>
      rw [runInstruction_of_decode hpc hdecode]
      obtain ⟨hnone, hkeeps⟩ | ⟨e, hsome, hexec⟩ := exec_error_cases i s.advancePc
      · exact .inl ⟨hnone, hkeeps⟩
      · rw [State.instrAddr_advancePc] at hexec
        exact .inr ⟨e, hsome, hexec⟩
  · rw [if_pos (by omega)]
    exact .inr ⟨_, rfl, runInstruction_of_fetch_error (fetch_out (by omega))⟩

/-- A tick that has an outcome began in mode normal (40_cycle.md R116). -/
theorem mode_normal_of_tick {s t : State} (h : tick s = .next t) : s.mode = .normal := by
  cases hmode : s.mode with
  | normal => rfl
  | fatal e => simp only [tick, hmode] at h; cases h

/-- Settles O11: a tick that ends in mode fatal raised its error, since without one the mode stays normal. -/
theorem errorsArePrecise : Obligations.ErrorsArePrecise := by
  intro s t e htick hfatal
  have hrun : runInstruction s.clearRequest = .next t := runInstruction_of_tick htick
  obtain ⟨-, u, hu, hkeeps⟩ | ⟨e', -, hraise⟩ := runInstruction_error_cases s.clearRequest
  · cases hu.symm.trans hrun
    have hnormal : t.mode = .normal := hkeeps.trans (mode_normal_of_tick htick)
    cases hnormal.symm.trans hfatal
  · cases hraise.symm.trans hrun
    obtain rfl : e' = e := Mode.fatal.inj hfatal
    exact raise_entersFatal s.clearRequest e' s.pc

end Sys2Proof.Machine

/-! ## Construction (70_reset_and_hazards.md R270, R272) -/

namespace Sys2Proof.Machine

/-- Everything construction can do: it is refused for want of ticks, it fails on a program that does not fit, or it
answers the reset state with the program in memory, the counts of the clock speed and the options. -/
theorem construct_cases (o : Config.Options) (clockSpeed : Nat) (program : List Byte) :
    (cadence clockSpeed = 0 ∧ construct o clockSpeed program = .error .noTicks) ∨
    (cadence clockSpeed ≠ 0 ∧ 4096 < 0x200 + program.length ∧
      construct o clockSpeed program = .error .programTooLarge) ∨
    (cadence clockSpeed ≠ 0 ∧ 0x200 + program.length ≤ 4096 ∧
      construct o clockSpeed program = .ok { State.reset with
        mem := programMemory program, ticksPerFrame := cadence clockSpeed, timerInterval := cadence clockSpeed,
        options := o }) := by
  unfold construct
  by_cases hticks : cadence clockSpeed = 0
  · exact .inl ⟨hticks, if_pos hticks⟩
  rw [if_neg hticks]
  by_cases hlarge : Config.memSize < Config.programOrigin + program.length
  · exact .inr (.inl ⟨hticks, hlarge, if_pos hlarge⟩)
  · exact .inr (.inr ⟨hticks, not_lt.mp hlarge, if_neg hlarge⟩)

/-- A program that fits stands verbatim from the program origin on, beside the font and zeros (20_memory.md R52). -/
theorem read_programMemory {program : List Byte} (hfits : 0x200 + program.length ≤ 4096) (a : Nat) :
    (programMemory program).read a =
      if h : 0x200 ≤ a ∧ a < 0x200 + program.length then program[a - 0x200]'(by omega) else Memory.resetByte a :=
  Memory.read_writeBytes Memory.wf_nil hfits a

@[simp] theorem getV_reset (r : Reg) : State.reset.getV r = 0 := Vector.getElem_replicate _

/-- Settles O20: a construction that succeeds is the reset state but for the memory, read by `read_programMemory`, the
two counts and the options. -/
theorem constructionLoadsTheProgram : Obligations.ConstructionLoadsTheProgram := by
  intro o clockSpeed program s hok
  obtain ⟨-, hnoTicks⟩ | ⟨-, -, hlarge⟩ | ⟨-, hfits, hloaded⟩ := construct_cases o clockSpeed program
  · cases hnoTicks.symm.trans hok
  · cases hlarge.symm.trans hok
  · cases hloaded.symm.trans hok
    exact ⟨read_programMemory hfits, getV_reset, rfl, rfl, rfl, rfl, rfl, cell_clear,
      fun _ => Vector.getElem_replicate _, rfl, rfl, rfl, rfl, rfl, rfl, rfl, rfl⟩

end Sys2Proof.Machine

/-! ## Encoding: each row's words, and decoding against them (30_encoding.md R85 to R87, R101) -/

namespace Sys2Proof

/-! ### Decoding an encoded instruction -/

/-- Each format's fields are read back, and the fixed nibbles and bytes select the instruction's own case. -/
theorem decode_encode {i : Instr} (h : i.wellFormed = true) : decode (encode i) = .ok i := by
  cases i
  case cls | ret => decide
  case drw x y n =>
    have hn : n < 16 := of_decide_eq_true h
    simp [encode, decode, Nat.mod_eq_of_lt hn]
  case seReg | sneReg => simp [encode, decode, decodeClass5, decodeClass9]
  case ldReg | orReg | andReg | xorReg | addReg | sub | shr | subn | shl => simp [encode, decode, decodeClass8]
  case skp | sknp => simp [encode, decode, decodeClassE]
  case ldVxDt | ldVxK | ldDtVx | ldStVx | addI | ldF | ldB | ldMemVx | ldVxMem => simp [encode, decode, decodeClassF]
  -- the remaining instructions are alone in their class
  all_goals simp [encode, decode]

/-- Settles O2: as bytes, the word is put together from its two bytes and what follows is left over. -/
theorem decodeInvertsEncode : Obligations.DecodeInvertsEncode := by
  intro i hwf
  refine ⟨decode_encode hwf, fun rest => ?_⟩
  rw [encodeBytes, decodeBytes_bytesOfWord, decode_encode hwf]

/-! ### Encoding a decoded word: a word is the format of its own fields -/

theorem formatNNN_eq_self {w : Word} {c : BitVec 4} (hc : Word.opClass w = c) : formatNNN c (Word.fieldNNN w) = w :=
  hc ▸ formatNNN_fields w

theorem formatXNN_eq_self {w : Word} {c : BitVec 4} {nn : Byte} (hc : Word.opClass w = c) (hnn : Word.fieldNN w = nn) :
    formatXNN c (Word.fieldX w) nn = w :=
  hc ▸ hnn ▸ formatXNN_fields w

theorem formatXYN_eq_self {w : Word} {c n : BitVec 4} (hc : Word.opClass w = c) (hn : Word.fieldN w = n) :
    formatXYN c (Word.fieldX w) (Word.fieldY w) n = w :=
  hc ▸ hn ▸ formatXYN_fields w

/-- `i` is a well-formed instruction whose word is `w`. -/
def EncodesTo (i : Instr) (w : Word) : Prop := encode i = w ∧ i.wellFormed = true

theorem encodesTo_of_decodeClass0 {w : Word} {i : Instr} (h : decodeClass0 w = .ok i) : EncodesTo i w := by
  unfold decodeClass0 at h
  split_ifs at h with hcls hret <;> cases h
  · exact ⟨hcls.symm, rfl⟩
  · exact ⟨hret.symm, rfl⟩

theorem encodesTo_of_decodeClass5 {w : Word} {i : Instr} (hc : Word.opClass w = 0x5#4) (h : decodeClass5 w = .ok i) :
    EncodesTo i w := by
  unfold decodeClass5 at h
  split_ifs at h with hn
  cases h
  exact ⟨formatXYN_eq_self hc hn, rfl⟩

theorem encodesTo_of_decodeClass8 {w : Word} {i : Instr} (hc : Word.opClass w = 0x8#4) (h : decodeClass8 w = .ok i) :
    EncodesTo i w := by
  simp only [decodeClass8] at h
  split_ifs at h <;> cases h
  all_goals exact ⟨formatXYN_eq_self hc (by assumption), rfl⟩

theorem encodesTo_of_decodeClass9 {w : Word} {i : Instr} (hc : Word.opClass w = 0x9#4) (h : decodeClass9 w = .ok i) :
    EncodesTo i w := by
  unfold decodeClass9 at h
  split_ifs at h with hn
  cases h
  exact ⟨formatXYN_eq_self hc hn, rfl⟩

theorem encodesTo_of_decodeClassE {w : Word} {i : Instr} (hc : Word.opClass w = 0xE#4) (h : decodeClassE w = .ok i) :
    EncodesTo i w := by
  simp only [decodeClassE] at h
  split_ifs at h <;> cases h
  all_goals exact ⟨formatXNN_eq_self hc (by assumption), rfl⟩

theorem encodesTo_of_decodeClassF {w : Word} {i : Instr} (hc : Word.opClass w = 0xF#4) (h : decodeClassF w = .ok i) :
    EncodesTo i w := by
  simp only [decodeClassF] at h
  split_ifs at h <;> cases h
  all_goals exact ⟨formatXNN_eq_self hc (by assumption), rfl⟩

/-- The height read from a word's low nibble is a 4-bit count, put back as that nibble. -/
theorem encodesTo_drw {w : Word} (hc : Word.opClass w = 0xD#4) :
    EncodesTo (.drw (Word.fieldX w) (Word.fieldY w) (Word.fieldN w).toNat) w :=
  ⟨formatXYN_eq_self hc (by rw [BitVec.ofNat_toNat, BitVec.setWidth_eq]), decide_eq_true (Word.fieldN w).isLt⟩

/-- A word that decodes is the encoding of what it decodes to, class by class. -/
theorem encodesTo_of_decode {w : Word} {i : Instr} (h : decode w = .ok i) : EncodesTo i w := by
  obtain hc | hc | hc | hc | hc | hc | hc | hc | hc | hc | hc | hc | hc | hc | hc | hc :=
      nibble_cases (Word.opClass w) <;>
    simp only [decode, hc, BitVec.reduceEq, if_true, if_false, Except.ok.injEq] at h
  · exact encodesTo_of_decodeClass0 h
  · exact h ▸ ⟨formatNNN_eq_self hc, rfl⟩
  · exact h ▸ ⟨formatNNN_eq_self hc, rfl⟩
  · exact h ▸ ⟨formatXNN_eq_self hc rfl, rfl⟩
  · exact h ▸ ⟨formatXNN_eq_self hc rfl, rfl⟩
  · exact encodesTo_of_decodeClass5 hc h
  · exact h ▸ ⟨formatXNN_eq_self hc rfl, rfl⟩
  · exact h ▸ ⟨formatXNN_eq_self hc rfl, rfl⟩
  · exact encodesTo_of_decodeClass8 hc h
  · exact encodesTo_of_decodeClass9 hc h
  · exact h ▸ ⟨formatNNN_eq_self hc, rfl⟩
  · exact h ▸ ⟨formatNNN_eq_self hc, rfl⟩
  · exact h ▸ ⟨formatXNN_eq_self hc rfl, rfl⟩
  · exact h ▸ encodesTo_drw hc
  · exact encodesTo_of_decodeClassE hc h
  · exact encodesTo_of_decodeClassF hc h

/-! ### The rows a word matches -/

open Laws.EncodeMatchesRow in
theorem opClass_of_and_class {w v : Word} (h : w &&& 0xF000#16 = v) : Word.opClass w = Word.opClass v := by
  rw [← h, ← formatNNN_fields w, formatNNN_and_class, opClass_formatNNN, opClass_formatNNN]

open Laws.EncodeMatchesRow in
theorem fields_of_and_classNN {w v : Word} (h : w &&& 0xF0FF#16 = v) :
    Word.opClass w = Word.opClass v ∧ Word.fieldNN w = Word.fieldNN v := by
  rw [← h, ← formatXNN_fields w, formatXNN_and_classNN]
  simp

open Laws.EncodeMatchesRow in
theorem fields_of_and_classN {w v : Word} (h : w &&& 0xF00F#16 = v) :
    Word.opClass w = Word.opClass v ∧ Word.fieldN w = Word.fieldN v := by
  rw [← h, ← formatXYN_fields w, formatXYN_and_classN]
  simp

/-- A word with the fixed bits of a row decodes to an instruction of that row. -/
theorem exists_decode_of_row {w : Word} (j : Instr) (h : w &&& j.row.mask = j.row.value) :
    ∃ i, decode w = .ok i ∧ i.row = j.row := by
  cases j
  case cls => exact ⟨.cls, congrArg decode (BitVec.and_allOnes.symm.trans h), rfl⟩
  case ret => exact ⟨.ret, congrArg decode (BitVec.and_allOnes.symm.trans h), rfl⟩
  case seReg | ldReg | orReg | andReg | xorReg | addReg | sub | shr | subn | shl | sneReg =>
    obtain ⟨hc, hn⟩ := fields_of_and_classN h
    simp +decide [decode, decodeClass5, decodeClass8, decodeClass9, hc, hn, Instr.row]
  case skp | sknp | ldVxDt | ldVxK | ldDtVx | ldStVx | addI | ldF | ldB | ldMemVx | ldVxMem =>
    obtain ⟨hc, hnn⟩ := fields_of_and_classNN h
    simp +decide [decode, decodeClassE, decodeClassF, hc, hnn, Instr.row]
  -- the remaining instructions are alone in their class
  all_goals simp +decide [decode, opClass_of_and_class h, Instr.row]

/-- An instruction's word has the fixed bits of its row: the family `EncodeMatchesRow` for every constructor. -/
theorem encode_and_mask (i : Instr) : encode i &&& i.row.mask = i.row.value := by
  cases i
  case cls | ret => rfl
  case jp | call | ldI | jpV0 => exact Laws.EncodeMatchesRow.formatNNN_and_class _ _
  case seByte | sneByte | ldByte | addByte | rnd => exact Laws.EncodeMatchesRow.formatXNN_and_class _ _ _
  case drw => exact Laws.EncodeMatchesRow.formatXYN_and_class _ _ _ _
  case seReg | ldReg | orReg | andReg | xorReg | addReg | sub | shr | subn | shl | sneReg =>
    exact Laws.EncodeMatchesRow.formatXYN_and_classN _ _ _ _
  all_goals exact Laws.EncodeMatchesRow.formatXNN_and_classNN _ _ _

/-- Settles O3: a word that decodes is the encoding of its instruction, so it has the fixed bits of that row, and a word
with the fixed bits of any row decodes to that row's instruction. -/
theorem everyWordDecodesUniquelyOrFails : Obligations.EveryWordDecodesUniquelyOrFails := by
  intro w
  have hrow : ∀ row ∈ opcodeTable, w &&& row.mask = row.value → ∃ i, decode w = .ok i ∧ i.row = row := by
    intro row hmem
    obtain ⟨j, -, rfl⟩ := List.mem_map.mp hmem
    exact exists_decode_of_row j
  cases hd : decode w with
  | ok i =>
    obtain ⟨hw, hwf⟩ := encodesTo_of_decode hd
    refine .inl ⟨i, rfl, hwf, hw, fun row hmem => ⟨fun hmatch => ?_, fun heq => ?_⟩⟩
    · obtain ⟨j, hj, rfl⟩ := hrow row hmem hmatch
      cases hd.symm.trans hj
      rfl
    · rw [heq, ← hw]
      exact encode_and_mask i
  | error e =>
    refine .inr ⟨congrArg Except.error (decode_error hd), fun row hmem hmatch => ?_⟩
    obtain ⟨j, hj, -⟩ := hrow row hmem hmatch
    cases hd.symm.trans hj

/-- Settles O1: each word is evaluated. -/
theorem vectorWordsDecodeToTheirInstructions : Obligations.VectorWordsDecodeToTheirInstructions := by
  unfold Obligations.VectorWordsDecodeToTheirInstructions
  decide

end Sys2Proof

/-! ## Everything an instruction can do to the state, and which instructions change what (10_state.md, 41_control.md) -/

namespace Sys2Proof.Machine

/-- The skip instructions (41_control.md R134 to R137; 45_input_timers.md R220, R221). -/
def IsSkip (i : Instr) : Prop :=
  (∃ x nn, i = .seByte x nn ∨ i = .sneByte x nn) ∨ (∃ x y, i = .seReg x y ∨ i = .sneReg x y) ∨
    (∃ x, i = .skp x ∨ i = .sknp x)

/-- The effects of the execute phase on `s`, each with the instructions that have it. What an effect's update does not
name is unchanged by rfl. -/
inductive Effect (s : State) : Instr → State → Prop where
  /-- The listed error (60_exceptions.md R246). -/
  | raised {i : Instr} {e : FatalError} : executeError i s = some e → Effect s i (s.raise e s.instrAddr)
  /-- One register, named as the destination (42_alu.md R152 to R157, R163; 45_input_timers.md R222, R223). -/
  | register {i : Instr} {x : Reg} {u : Byte} (draws : Nat) :
      namesAsDestination i x = true → Effect s i { s.setV x u with draws := draws }
  /-- The destination and VF (42_alu.md R158 to R162). -/
  | resultFlag {i : Instr} {x : Reg} {u : Byte} {f : Bool} :
      namesAsDestination i x = true → writesFlag i = true → Effect s i (s.setResultFlag x u f)
  /-- JP addr and JP V0, addr (41_control.md R130, R133). -/
  | jump {i : Instr} {a : Word} : (∃ nnn, i = .jp nnn ∨ i = .jpV0 nnn) → a.toNat ≤ 0x10FE →
      Effect s i { s with pc := a }
  /-- CALL (41_control.md R131). -/
  | call {nnn : Addr} : Effect s (.call nnn) { s with stack := s.pc :: s.stack, pc := addrOperand nnn }
  /-- RET (41_control.md R132). -/
  | ret {a : Word} {rest : List Word} : s.stack = a :: rest → Effect s .ret { s with stack := rest, pc := a }
  /-- A skip taken or not (41_control.md R140; 45_input_timers.md R220, R221). -/
  | skip {i : Instr} {a : Word} : IsSkip i → a = s.pc + 2 ∨ a = s.pc → Effect s i { s with pc := a }
  /-- LD Vx, K waiting (45_input_timers.md R222). -/
  | rewind {x : Reg} : Effect s (.ldVxK x) { s with pc := s.pc - 2 }
  /-- LD I, ADD I and LD F (43_index_memory.md R180 to R182). -/
  | index {i : Instr} {a : Word} : (∃ nnn, i = .ldI nnn) ∨ (∃ x, i = .addI x) ∨ (∃ x, i = .ldF x) →
      Effect s i { s with i := a }
  /-- LD B, Vx (43_index_memory.md R183). -/
  | bcd {x : Reg} : s.indexAddr + 2 < 4096 →
      Effect s (.ldB x) { s with mem := s.mem.writeBytes s.indexAddr (bcdDigits (s.getV x)) }
  /-- LD [I], Vx (43_index_memory.md R184). -/
  | dump {x : Reg} {a : Word} : s.indexAddr + x.val < 4096 → a = s.i ∨ s.options.loadStoreIncrementsI = true →
      Effect s (.ldMemVx x) { s with mem := s.mem.writeBytes s.indexAddr (s.dumpV x), i := a }
  /-- LD Vx, [I] (43_index_memory.md R185). -/
  | load {x : Reg} {v : Vector Byte 16} {a : Word} : (∀ r : Reg, x < r → v[r] = s.getV r) →
      a = s.i ∨ s.options.loadStoreIncrementsI = true → Effect s (.ldVxMem x) { s with v := v, i := a }
  /-- LD DT, Vx (45_input_timers.md R224). -/
  | delay {x : Reg} : Effect s (.ldDtVx x) { s with dt := s.getV x }
  /-- LD ST, Vx (45_input_timers.md R225). -/
  | sound {x : Reg} : Effect s (.ldStVx x) (s.setST (s.getV x))
  /-- CLS (44_display.md R200). -/
  | cls : Effect s .cls { s with disp := Display.clear, redrawRequest := true }
  /-- DRW (44_display.md R202). -/
  | drw {x y : Reg} {n : Nat} (rows : List Byte) : Effect s (.drw x y n) (s.drawSprite x y rows)

theorem Effect.of_skipIf {s : State} {i : Instr} (hi : IsSkip i) (c : Bool) : Effect s i (s.skipIf c) := by
  rw [skipIf_eq]
  exact .skip hi (ite_eq_or_eq _ _ _)

/-- The execute phase answers one of the effects of its instruction. -/
theorem Effect.of_exec {i : Instr} {s t : State} (h : exec i s = .next t) : Effect s i t := by
  cases i
  case call nnn =>
    obtain ⟨hfull, h'⟩ | ⟨-, h'⟩ := execCall_cases nnn s <;> cases h'.symm.trans h
    · exact .raised (if_pos hfull)
    · exact .call
  case ret =>
    obtain ⟨hempty, h'⟩ | ⟨a, rest, htop, h'⟩ := execRet_cases s <;> cases h'.symm.trans h
    · exact .raised (if_pos hempty)
    · exact .ret htop
  case addI x =>
    obtain ⟨-, h'⟩ | ⟨hout, h'⟩ := execAddI_cases x s <;> cases h'.symm.trans h
    · exact .index (.inr (.inl ⟨x, rfl⟩))
    · exact .raised (if_pos hout)
  case ldB x =>
    obtain ⟨hin, h'⟩ | ⟨hout, h'⟩ := execLdB_cases x s <;> cases h'.symm.trans h
    · exact .bcd (by omega)
    · exact .raised (if_pos (by unfold State.indexAddr at hout; omega))
  case ldMemVx x =>
    obtain ⟨hin, h'⟩ | ⟨hout, h'⟩ := execLdMemVx_cases x s <;> cases h'.symm.trans h
    · rw [advanceI_eq]
      exact .dump hin (or_iff_not_imp_right.mpr fun hoff => if_neg hoff)
    · exact .raised (if_pos hout)
  case ldVxMem x =>
    obtain ⟨-, h'⟩ | ⟨hout, h'⟩ := execLdVxMem_cases x s <;> cases h'.symm.trans h
    · rw [advanceI_eq, loadV_eq]
      refine .load (fun r hr => ?_) ?_
      · exact (getV_loadV_readBytes s _ x r).trans (if_neg hr.not_ge)
      · exact or_iff_not_imp_right.mpr fun hoff => if_neg hoff
    · exact .raised (if_pos hout)
  case drw x y n =>
    obtain ⟨-, h'⟩ | ⟨⟨hpos, hout⟩, h'⟩ := execDrw_cases x y n s <;> cases h'.symm.trans h
    · exact .drw _
    · exact .raised (if_pos (by unfold State.indexAddr at hout; omega))
  case ldVxK x =>
    obtain ⟨k, -, h'⟩ | ⟨-, h'⟩ := execLdVxK_cases x s <;> cases h'.symm.trans h
    · exact .register s.draws (decide_eq_true rfl)
    · exact .rewind
  -- every other meaning is one update
  all_goals cases h
  case jp nnn => exact .jump ⟨nnn, .inl rfl⟩ (by have := nnn.isLt; rw [addrOperand_toNat]; omega)
  case jpV0 nnn =>
    refine .jump ⟨nnn, .inr rfl⟩ ?_
    have hnnn : nnn.toNat < 4096 := nnn.isLt
    have hv0 : (s.getV 0).toNat < 256 := (s.getV 0).isLt
    rw [State.jumpOffset_toNat]
    omega
  case ldByte | addByte | ldReg | orReg | andReg | xorReg | ldVxDt =>
    exact .register s.draws (decide_eq_true rfl)
  case rnd => exact .register (s.draws + 1) (decide_eq_true rfl)
  case addReg | sub | shr | subn | shl => exact .resultFlag (decide_eq_true rfl) rfl
  case seByte x nn => exact .of_skipIf (.inl ⟨x, nn, .inl rfl⟩) _
  case sneByte x nn => exact .of_skipIf (.inl ⟨x, nn, .inr rfl⟩) _
  case seReg x y => exact .of_skipIf (.inr (.inl ⟨x, y, .inl rfl⟩)) _
  case sneReg x y => exact .of_skipIf (.inr (.inl ⟨x, y, .inr rfl⟩)) _
  case skp x => exact .of_skipIf (.inr (.inr ⟨x, .inl rfl⟩)) _
  case sknp x => exact .of_skipIf (.inr (.inr ⟨x, .inr rfl⟩)) _
  case ldI nnn => exact .index (.inl ⟨nnn, rfl⟩)
  case ldF x => exact .index (.inr (.inr ⟨x, rfl⟩))
  case ldDtVx => exact .delay
  case ldStVx => exact .sound
  case cls => exact .cls

/-- Settles O29: only the register writers, the flag writers, the load and DRW have an effect on V. -/
theorem registersChangeOnlyByNameOrFlag : Obligations.RegistersChangeOnlyByNameOrFlag := by
  intro i s t r hexec hne
  cases Effect.of_exec hexec
  case register x u draws hname =>
    obtain rfl : r = x := by
      by_contra hrx
      exact hne ((getV_setV s x r u).trans (if_neg hrx))
    exact .inl hname
  case resultFlag x u f hname hflag =>
    rw [getV_setResultFlag] at hne
    by_cases h15 : r = 15
    · exact .inr ⟨h15, hflag⟩
    obtain rfl : r = x := by
      by_contra hrx
      exact hne (by rw [if_neg h15, if_neg hrx])
    exact .inl hname
  case load x v a hkept hi => exact .inl (decide_eq_true (not_lt.mp fun hr => hne (hkept r hr)))
  case drw x y n rows =>
    refine .inr ⟨?_, rfl⟩
    by_contra h15
    exact hne ((State.getV_drawSprite s x y rows r).trans (if_neg h15))
  all_goals exact absurd rfl hne

/-- Settles O30: only these two effects name the display. -/
theorem displayChangesOnlyByClsAndDrw : Obligations.DisplayChangesOnlyByClsAndDrw := by
  intro i s t hexec hne
  cases Effect.of_exec hexec
  case cls => exact .inl rfl
  case drw x y n rows => exact .inr ⟨x, y, n, rfl⟩
  all_goals exact absurd rfl hne

/-- Settles O31: outside its own bytes each store leaves what `byteAfterBcd` and `byteAfterDump` leave. -/
theorem memoryChangesOnlyByBcdAndDump : Obligations.MemoryChangesOnlyByBcdAndDump := by
  intro i s t a hcanonical hexec hne
  cases Effect.of_exec hexec
  case bcd x hin =>
    rw [read_writeBytes_bcd x hcanonical hin] at hne
    have hinside := mt (byteAfterBcd_outside (s := s) (a := a) x) hne
    exact .inl ⟨x, rfl, by unfold State.indexAddr at hinside; omega⟩
  case dump x i' hin hi =>
    rw [read_writeBytes_dump x hcanonical hin] at hne
    have hinside := mt (byteAfterDump_outside (s := s) (a := a) (x := x)) hne
    exact .inr ⟨x, rfl, by unfold State.indexAddr at hinside; omega⟩
  all_goals exact absurd rfl hne

/-- Settles O32: only these two effects name the stack. -/
theorem stackChangesOnlyByCallAndRet : Obligations.StackChangesOnlyByCallAndRet := by
  intro i s t hexec hne
  cases Effect.of_exec hexec
  case call nnn => exact .inl ⟨nnn, rfl, rfl⟩
  case ret a rest htop => exact .inr ⟨rfl, htop⟩
  all_goals exact absurd rfl hne

/-- Settles O33: I is named by its writers' effect, and by the dump's and the load's where they are so configured. -/
theorem indexChangesOnlyByItsWriters : Obligations.IndexChangesOnlyByItsWriters := by
  intro i s t hexec hne
  cases Effect.of_exec hexec
  case index a hwriter =>
    obtain h | h | h := hwriter
    exacts [.inl h, .inr (.inl h), .inr (.inr (.inl h))]
  case dump x a hin hi => exact .inr (.inr (.inr ⟨hi.resolve_left hne, x, .inl rfl⟩))
  case load x v a hkept hi => exact .inr (.inr (.inr ⟨hi.resolve_left hne, x, .inr rfl⟩))
  all_goals exact absurd rfl hne

/-- Settles O34: the error's own writing of PC is set aside by the premise. -/
theorem pcChangesOnlyByControlTransfers : Obligations.PcChangesOnlyByControlTransfers := by
  intro i s t hexec hnone hne
  cases Effect.of_exec hexec
  case raised e hsome => cases hnone.symm.trans hsome
  case jump a ha hjump =>
    obtain ⟨nnn, h | h⟩ := hjump
    exacts [.inl ⟨nnn, .inl h⟩, .inl ⟨nnn, .inr (.inr h)⟩]
  case call nnn => exact .inl ⟨nnn, .inr (.inl rfl)⟩
  case ret => exact .inr (.inl rfl)
  case skip a ha hskip =>
    obtain h | h | ⟨x, h | h⟩ := hskip
    exacts [.inr (.inr (.inl h)), .inr (.inr (.inr (.inl h))), .inr (.inr (.inr (.inr ⟨x, .inl h⟩))),
      .inr (.inr (.inr (.inr ⟨x, .inr (.inl h)⟩)))]
  case rewind x => exact .inr (.inr (.inr (.inr ⟨x, .inr (.inr rfl)⟩)))
  all_goals exact absurd rfl hne

end Sys2Proof.Machine

/-! ## The tick and the step, each said once (40_cycle.md R112 to R119) -/

namespace Sys2Proof.Machine

/-- The tick's error table does not read what the tick before it returned. -/
@[simp] theorem tickError_clearRequest (s : State) : tickError s.clearRequest = tickError s := rfl

/-- Settles O10: the tick is its instruction run, whose first error `tickError` lists. -/
theorem tickRaisesTheFirstErrorOnly : Obligations.TickRaisesTheFirstErrorOnly := by
  intro s hmode
  rw [tick_normal hmode]
  obtain ⟨hnone, t, hrun, hkeeps⟩ | ⟨e, hsome, hrun⟩ := runInstruction_error_cases s.clearRequest
  · rw [tickError_clearRequest] at hnone
    exact ⟨t, hrun, by rw [hnone]; exact hkeeps.trans hmode⟩
  · rw [tickError_clearRequest] at hsome
    exact ⟨_, hrun, by rw [hsome]; rfl⟩

/-- In mode normal the tick has an outcome, and only a next state. -/
theorem exists_tick {s : State} (h : s.mode = .normal) : ∃ t, tick s = .next t :=
  (tickRaisesTheFirstErrorOnly s h).imp fun _ => And.left

/-- Everything a tick can do: raise an error at PC, or have an effect of the instruction that stands at PC. -/
theorem tick_effect {s t : State} (h : tick s = .next t) :
    (∃ e, t = s.clearRequest.raise e s.pc) ∨
    (∃ i, s.pc.toNat < 0xFFF ∧ decode s.wordAtPc = .ok i ∧ Effect s.clearRequest.advancePc i t) := by
  have hrun := runInstruction_of_tick h
  obtain ⟨-, u, hu, -⟩ | ⟨e, -, hraise⟩ := runInstruction_error_cases s.clearRequest
  swap
  · cases hraise.symm.trans hrun
    exact .inl ⟨e, rfl⟩
  by_cases hpc : s.pc.toNat < 0xFFF
  swap
  · cases (runInstruction_of_fetch_error (fetch_out (s := s.clearRequest) (not_lt.mp hpc))).symm.trans hrun
    exact .inl ⟨_, rfl⟩
  cases hd : decode s.wordAtPc with
  | error e =>
    cases (runInstruction_of_decode_error (s := s.clearRequest) hpc hd).symm.trans hrun
    exact .inl ⟨_, rfl⟩
  | ok i =>
    rw [runInstruction_of_decode (s := s.clearRequest) hpc hd] at hrun
    exact .inr ⟨i, hpc, rfl, .of_exec hrun⟩

/-- The count of a tick, below TIMER_INTERVAL and at it (R118). -/
theorem countTick_cases (s : State) :
    (s.tickCount + 1 = s.timerInterval ∧
      s.countTick = { s.timerUpdate with redraw := s.redraw || s.redrawRequest, tickCount := 0 }) ∨
    (s.tickCount + 1 ≠ s.timerInterval ∧
      s.countTick = { s with redraw := s.redraw || s.redrawRequest, tickCount := s.tickCount + 1 }) := by
  by_cases h : s.tickCount + 1 = s.timerInterval
  · exact .inl ⟨h, if_pos h⟩
  · exact .inr ⟨h, if_neg h⟩

theorem closeTick_normal {s : State} (h : s.mode = .normal) :
    s.closeTick = { s with frameLeft := s.frameLeft - 1 } := by
  simp only [State.closeTick, h]

theorem closeTick_fatal {s : State} {e : FatalError} (h : s.mode = .fatal e) :
    s.closeTick = { s with frameLeft := 0 } := by
  simp only [State.closeTick, h]

/-- A step in mode normal is the tick of the open frame, counted unless it raised an error. -/
theorem step_of_tick {s u : State} (hmode : s.mode = .normal) (h : tick s.openFrame = .next u) :
    step s = .next (if u.mode = .normal then u.countTick.closeTick else u.closeTick) := by
  simp only [step, stepFrame, hmode, frameTick, h]
  cases hu : u.mode with
  | normal => simp only [andThen_normal _ hu, if_true]
  | fatal e => simp only [andThen_fatal _ hu, reduceCtorEq, if_false]

theorem tick_fatal {s : State} {e : FatalError} (h : s.mode = .fatal e) : tick s = .fault (.engineStopped e) := by
  simp only [tick, h]

theorem step_fatal {s : State} {e : FatalError} (h : s.mode = .fatal e) : step s = .fault (.engineStopped e) := by
  simp only [step, stepFrame, h]

theorem runFrame_fatal {s : State} {e : FatalError} (h : s.mode = .fatal e) :
    runFrame s = .fault (.engineStopped e) := by
  simp only [runFrame, h]

theorem hostCall_fatal {s : State} {e : FatalError} (h : s.mode = .fatal e) (c : HostCall) :
    hostCall c s = .fault (.engineStopped e) := by
  simp only [hostCall, h]

/-- Settles O8: each operation looks at the mode first. -/
theorem fatalModeHasNoStep : Obligations.FatalModeHasNoStep := by
  intro s e hmode
  exact ⟨tick_fatal hmode, step_fatal hmode, runFrame_fatal hmode, hostCall_fatal hmode⟩

theorem mode_normal_of_step {s t : State} (h : step s = .next t) : s.mode = .normal := by
  cases hmode : s.mode with
  | normal => rfl
  | fatal e => cases (step_fatal hmode).symm.trans h

/-- Everything a step can do: its tick in the open frame, then the count, or the end of the frame at an error. -/
theorem step_cases {s t : State} (h : step s = .next t) : ∃ u, tick s.openFrame = .next u ∧
    ((u.mode = .normal ∧ t = u.countTick.closeTick) ∨ (∃ e, u.mode = .fatal e ∧ t = u.closeTick)) := by
  have hmode := mode_normal_of_step h
  obtain ⟨u, hu⟩ := exists_tick (s := s.openFrame) (by rw [State.openFrame_mode, hmode])
  refine ⟨u, hu, ?_⟩
  cases (step_of_tick hmode hu).symm.trans h
  cases hm : u.mode with
  | normal => exact .inl ⟨rfl, if_pos rfl⟩
  | fatal e => exact .inr ⟨e, rfl, if_neg nofun⟩

/-- What the frame loop's bookkeeping and the tick keep, a step keeps. -/
theorem step_keeps {P : State → Prop} (hopen : ∀ {s}, P s → P s.openFrame)
    (htick : ∀ {s t}, P s → tick s = .next t → P t) (hcount : ∀ {s}, P s → P s.countTick)
    (hclose : ∀ {s}, P s → P s.closeTick) {s t : State} (hs : P s) (h : step s = .next t) : P t := by
  obtain ⟨u, hu, ⟨-, rfl⟩ | ⟨e, -, rfl⟩⟩ := step_cases h
  · exact hclose (hcount (htick (hopen hs) hu))
  · exact hclose (htick (hopen hs) hu)

end Sys2Proof.Machine

/-! ## The invariants of memory, the tone and PC, each kept by every step (10_state.md R28, R43; 20_memory.md R50) -/

namespace Sys2Proof.Machine

/-! ### Memory -/

theorem Effect.memoryCanonical {s t : State} {i : Instr} (heffect : Effect s i t) (h : MemoryCanonical s) :
    MemoryCanonical t := by
  cases heffect
  case bcd x hin => exact Memory.wf_writeBytes h hin
  case dump x a hin hi => exact Memory.wf_writeBytes h (by rw [length_dumpV]; exact hin)
  all_goals exact h

theorem memoryCanonical_of_tick {s t : State} (h : MemoryCanonical s) (htick : tick s = .next t) :
    MemoryCanonical t := by
  obtain ⟨e, rfl⟩ | ⟨i, -, -, heffect⟩ := tick_effect htick
  · exact h
  · exact heffect.memoryCanonical h

/-- Settles O24: the bookkeeping leaves memory, and a tick stores inside it. -/
theorem stepKeepsMemoryCanonical : Obligations.StepKeepsMemoryCanonical := by
  intro s t
  refine step_keeps (fun h => ?_) memoryCanonical_of_tick (fun h => ?_) id
  · rwa [MemoryCanonical, State.openFrame_mem]
  · rwa [MemoryCanonical, State.countTick_mem]

/-! ### The tone -/

/-- ST's new value, its command and tone_on fit together. -/
theorem ToneConsistent.setST {s : State} (h : ToneConsistent s) (u : Byte) : ToneConsistent (s.setST u) := by
  obtain ⟨hon, hafter⟩ := h
  refine ⟨rfl, ?_⟩
  rw [State.setST_toneCommands, toneAfter_append, hafter, hon]
  exact toneAfter_transition s.st u

theorem toneConsistent_of_tick {s t : State} (h : ToneConsistent s) (htick : tick s = .next t) : ToneConsistent t := by
  obtain ⟨x, -, rfl⟩ | ⟨x, -, rfl⟩ | hkeep := runInstruction_cases (runInstruction_of_tick htick)
  · exact h
  · exact ToneConsistent.setST (s := s.clearRequest.advancePc) h _
  · obtain ⟨-, -, -, -, -, -, -, -, hst, htone, hcommands⟩ := CycleFields.mk.inj hkeep
    rwa [ToneConsistent, hst, htone, hcommands]

theorem ToneConsistent.countTick {s : State} (h : ToneConsistent s) : ToneConsistent s.countTick := by
  obtain ⟨-, hcount⟩ | ⟨-, hcount⟩ := countTick_cases s <;> rw [hcount]
  · exact h.setST (countDown s.st)
  · exact h

/-- Settles O25: ST is written by `setST` alone, in the tick and in the timer update. -/
theorem stepKeepsToneConsistent : Obligations.StepKeepsToneConsistent := by
  intro s t
  refine step_keeps (fun h => ?_) toneConsistent_of_tick ToneConsistent.countTick id
  rwa [ToneConsistent, State.openFrame_toneOn, State.openFrame_st, State.openFrame_toneCommands]

/-! ### PC and the return addresses -/

/-- From an advanced PC, which a fetch inside memory leaves between 2 and 0x1000, an effect keeps R28's bounds. -/
theorem Effect.pcInRange {s t : State} {i : Instr} (heffect : Effect s i t) (hlow : 2 ≤ s.pc.toNat)
    (hhigh : s.pc.toNat ≤ 0x1000) (hstack : ∀ a ∈ s.stack, a.toNat ≤ 0x1000) : PcInRange t := by
  cases heffect
  case raised => exact ⟨nofun, hstack⟩
  case jump a ha hjump => exact ⟨fun _ => ha, hstack⟩
  case call nnn =>
    have hnnn := nnn.isLt
    exact ⟨fun _ => by rw [addrOperand_toNat]; omega, List.forall_mem_cons.mpr ⟨hhigh, hstack⟩⟩
  case ret a rest htop =>
    rw [htop] at hstack
    obtain ⟨ha, hrest⟩ := List.forall_mem_cons.mp hstack
    exact ⟨fun _ => Nat.le_trans ha (by decide), hrest⟩
  case skip a ha hskip =>
    obtain rfl | rfl := ha
    · exact ⟨fun _ => by simp only; bv_omega, hstack⟩
    · exact ⟨fun _ => by simp only; omega, hstack⟩
  case rewind => exact ⟨fun _ => by simp only; bv_omega, hstack⟩
  all_goals exact ⟨fun _ => Nat.le_trans hhigh (by decide), hstack⟩

theorem pcInRange_of_tick {s t : State} (h : PcInRange s) (htick : tick s = .next t) : PcInRange t := by
  obtain ⟨-, hstack⟩ := h
  obtain ⟨e, rfl⟩ | ⟨i, hpc, -, heffect⟩ := tick_effect htick
  · exact ⟨nofun, hstack⟩
  · have hadvanced : s.clearRequest.advancePc.pc.toNat = s.pc.toNat + 2 := by
      rw [State.advancePc_pc, State.clearRequest_pc]
      bv_omega
    exact heffect.pcInRange (by omega) (by omega) hstack

/-- Settles O27: only a fetch inside memory is advanced over, and what leaves the bounds is in mode fatal. -/
theorem stepKeepsPcInRange : Obligations.StepKeepsPcInRange := by
  intro s t
  refine step_keeps (fun h => ?_) pcInRange_of_tick (fun h => ?_) id
  · rwa [PcInRange, State.openFrame_mode, State.openFrame_pc, State.openFrame_stack]
  · rwa [PcInRange, State.countTick_mode, State.countTick_pc, State.countTick_stack]

end Sys2Proof.Machine

/-! ## What a step runs, and the frame loop's bookkeeping (40_cycle.md R112 to R119, 10_state.md R40, R42) -/

namespace Sys2Proof.Machine

/-! ### The step and its instruction -/

@[simp] theorem State.wordAtPc_openFrame (s : State) : s.openFrame.wordAtPc = s.wordAtPc := by
  simp only [State.wordAtPc, State.openFrame_mem, State.openFrame_pc]

/-- Settles O6: the open frame's tick executes the instruction, and the step goes on from its outcome. -/
theorem stepRunsTheDecodedInstruction : Obligations.StepRunsTheDecodedInstruction := by
  intro s i hmode hpc hd
  have hmode' : s.openFrame.mode = .normal := by rw [State.openFrame_mode, hmode]
  have htick : tick s.openFrame = exec i { s.openFrame with redrawRequest := false, pc := s.pc + 2 } := by
    rw [tick_normal hmode', ← s.openFrame_pc]
    exact runInstruction_of_decode (by rwa [State.clearRequest_pc, State.openFrame_pc])
      (by rwa [State.wordAtPc_clearRequest, State.wordAtPc_openFrame])
  obtain ⟨u, hu⟩ := exists_tick hmode'
  rw [step_of_tick hmode hu, ← htick, hu]

/-- A word placed inside memory stands there as it would be fetched. -/
theorem wordOfBytes_read_writeBytes {m : Memory} {a : Nat} (w : Word) (hm : m.wf = true) (ha : a + 2 ≤ 4096) :
    wordOfBytes ((m.writeBytes a (bytesOfWord w)).read a) ((m.writeBytes a (bytesOfWord w)).read (a + 1)) = w := by
  have hread := Memory.read_writeBytes (bytes := bytesOfWord w) hm ha
  have hhi : (m.writeBytes a (bytesOfWord w)).read a = w.extractLsb' 8 8 := by
    rw [hread, dif_pos (by simp)]
    simp [bytesOfWord]
  have hlo : (m.writeBytes a (bytesOfWord w)).read (a + 1) = w.extractLsb' 0 8 := by
    rw [hread, dif_pos (by simp)]
    simp [bytesOfWord]
  rw [hhi, hlo, wordOfBytes_bytesOfWord]

/-- Placing a word at PC is two stores and nothing else. -/
theorem withFetchWord_eq {s : State} (w : Nat) (hpc : s.pc.toNat < 0xFFF) :
    s.withFetchWord 16 w = { s with mem := s.mem.writeBytes s.pc.toNat (bytesOfWord (BitVec.ofNat 16 w)) } := by
  rw [State.withFetchWord, tableWord_sixteen, State.placeWord, memWrite_in (.inr (by rw [length_bytesOfWord]; omega))]

theorem EntersFatal.mode {s t : State} {e : FatalError} {a : Word} (h : EntersFatal s t e a) : t.mode = .fatal e := by
  obtain ⟨heq, -⟩ := h
  rw [heq]

/-- A step at an undecodable word raises the error in its tick. -/
theorem step_of_decode_error {s : State} {e : DecodeError} (hmode : s.mode = .normal) (hpc : s.pc.toNat < 0xFFF)
    (hd : decode s.wordAtPc = .error e) :
    ∃ t, step s = .next t ∧ t.mode = .fatal (.undecodableInstruction s.wordAtPc s.pc) := by
  obtain ⟨u, hu, hfatal⟩ := undecodableWordIsFatal s.openFrame e (by rw [State.openFrame_mode, hmode])
    (by rwa [State.openFrame_pc]) (by rwa [State.wordAtPc_openFrame])
  rw [State.wordAtPc_openFrame, State.openFrame_pc] at hfatal
  have hmode' := hfatal.mode
  exact ⟨_, step_of_tick hmode hu, by rw [if_neg (by rw [hmode']; nofun), State.closeTick_mode, hmode']⟩

/-- Settles O7: the placed word is the one the step fetches, so the step runs it where it decodes (O6) and raises the
error where it does not. -/
theorem placedWordIsTheNextInstruction : Obligations.PlacedWordIsTheNextInstruction := by
  intro s w hmode hcanonical hpc
  have hin : s.pc.toNat + 2 ≤ 4096 := by omega
  rw [withFetchWord_eq w hpc]
  set t : State := { s with mem := s.mem.writeBytes s.pc.toNat (bytesOfWord (BitVec.ofNat 16 w)) }
  have hword : t.wordAtPc = BitVec.ofNat 16 w := wordOfBytes_read_writeBytes _ hcanonical hin
  have hfetch : t.fetch = .ok t.wordAtPc := fetch_in hpc
  refine ⟨hword ▸ hfetch, rfl, fun a ha ha' => ?_, fun i hi => ?_, fun hnone => ?_⟩
  · refine (Memory.read_writeBytes hcanonical hin a).trans (dif_neg ?_)
    rw [length_bytesOfWord]
    omega
  · have hd := decodeTableWord_eq_some.mp hi
    exact ⟨hd, stepRunsTheDecodedInstruction t i hmode hpc (hword ▸ hd)⟩
  · have hd := decodeTableWord_eq_none.mp hnone
    exact ⟨hd, hword ▸ step_of_decode_error (s := t) hmode hpc (hword ▸ hd)⟩

/-! ### Errors stop the frame -/

theorem openFrame_eq (s : State) : s.openFrame =
    { s with redraw := if s.frameLeft = 0 then false else s.redraw
             frameLeft := if s.frameLeft = 0 then s.ticksPerFrame else s.frameLeft } := by
  unfold State.openFrame
  split <;> rfl

/-- Settles O12: the tick's error is precise (O11), and what follows it only ends the frame. -/
theorem errorStopsTheFrameUncounted : Obligations.ErrorStopsTheFrameUncounted := by
  intro s t e hstep hfatal
  obtain ⟨u, hu, ⟨hnormal, rfl⟩ | ⟨e', hfatal', rfl⟩⟩ := step_cases hstep
  · rw [State.closeTick_mode, State.countTick_mode, hnormal] at hfatal
    cases hfatal
  · have hstopped := step_fatal (s := u.closeTick) hfatal
    obtain ⟨hu, -⟩ := errorsArePrecise _ _ _ hu hfatal'
    rw [closeTick_fatal hfatal'] at hstopped ⊢
    rw [openFrame_eq] at hu
    rw [hu] at hstopped ⊢
    exact ⟨rfl, rfl, rfl, rfl, rfl, rfl, rfl, rfl, rfl, rfl, rfl, rfl, hstopped⟩

/-! ### Redraw -/

theorem requestsRedraw_of_namesAsDestination {i : Instr} {x : Reg} (h : namesAsDestination i x = true) :
    requestsRedraw i = false := by
  cases i
  case cls | drw => cases h
  all_goals rfl

/-- Without an error an effect requests a redraw exactly where it is CLS's or DRW's. -/
theorem Effect.redrawRequest {s t : State} {i : Instr} (heffect : Effect s i t) (hmode : t.mode = .normal)
    (hclear : s.redrawRequest = false) : t.redrawRequest = requestsRedraw i := by
  cases heffect
  case raised => cases hmode
  case cls | drw => rfl
  case register hname => exact hclear.trans (requestsRedraw_of_namesAsDestination hname).symm
  case resultFlag hname hflag => exact hclear.trans (requestsRedraw_of_namesAsDestination hname).symm
  case jump a ha hjump => obtain ⟨nnn, rfl | rfl⟩ := hjump <;> exact hclear
  case skip a ha hskip => obtain ⟨x, nn, rfl | rfl⟩ | ⟨x, y, rfl | rfl⟩ | ⟨x, rfl | rfl⟩ := hskip <;> exact hclear
  case index a hwriter => obtain ⟨nnn, rfl⟩ | ⟨x, rfl⟩ | ⟨x, rfl⟩ := hwriter <;> exact hclear
  all_goals exact hclear

/-- What a tick leaves to the frame loop (O13), by name. -/
theorem tick_keeps {s t : State} (h : tick s = .next t) :
    t.tickCount = s.tickCount ∧ t.redraw = s.redraw ∧ t.keys = s.keys ∧ t.ticksPerFrame = s.ticksPerFrame ∧
      t.timerInterval = s.timerInterval ∧ t.options = s.options ∧ t.frameLeft = s.frameLeft := by
  obtain ⟨hcount, hredraw, hkeys, hticks, hinterval, hoptions, hleft, -⟩ :=
    tickTouchesTimersOnlyByFX15AndFX18 s t h
  exact ⟨hcount, hredraw, hkeys, hticks, hinterval, hoptions, hleft⟩

/-- Settles O14: the tick's effect decides the request, and the count adds it to the flag of the open frame. -/
theorem redrawFollowsClsAndDrwOnly : Obligations.RedrawFollowsClsAndDrwOnly := by
  refine ⟨rfl, fun s t i hpc hd hstep hmode => ?_⟩
  obtain ⟨u, hu, ⟨hnormal, rfl⟩ | ⟨e, hfatal, rfl⟩⟩ := step_cases hstep
  swap
  · cases hmode.symm.trans hfatal
  have hrequest : u.redrawRequest = requestsRedraw i := by
    obtain ⟨e, rfl⟩ | ⟨j, -, hj, heffect⟩ := tick_effect hu
    · cases hnormal
    · rw [State.wordAtPc_openFrame] at hj
      cases hd.symm.trans hj
      exact heffect.redrawRequest hnormal rfl
  obtain ⟨-, hredraw, -⟩ := tick_keeps hu
  rw [State.closeTick_redrawRequest, State.countTick_redrawRequest, State.closeTick_redraw, State.countTick_redraw,
    hrequest, hredraw, openFrame_eq]
  exact ⟨rfl, rfl⟩

/-! ### The counters -/

/-- Inside a frame: the ticks done and the ticks left make it up. -/
structure InFrame (s : State) : Prop where
  left : 0 < s.frameLeft
  total : s.tickCount + s.frameLeft = s.ticksPerFrame
  interval : s.timerInterval = s.ticksPerFrame

theorem CadenceConsistent.openFrame {s : State} (h : CadenceConsistent s) (hmode : s.mode = .normal) :
    InFrame s.openFrame := by
  obtain ⟨hpos, hinterval, -, hnormal, -⟩ := h
  rw [openFrame_eq]
  obtain ⟨hbetween, hcount⟩ | ⟨hleft, htotal⟩ := hnormal hmode
  · exact ⟨by simpa [hbetween] using hpos, by simp [hbetween, hcount], hinterval⟩
  · have hinside : s.frameLeft ≠ 0 := by omega
    exact ⟨by simpa [hinside] using hleft, by simpa [hinside] using htotal, hinterval⟩

theorem InFrame.of_tick {s t : State} (h : InFrame s) (htick : tick s = .next t) : InFrame t := by
  obtain ⟨hcount, -, -, hticks, hinterval, -, hleft⟩ := tick_keeps htick
  obtain ⟨left, total, interval⟩ := h
  exact ⟨by rwa [hleft], by rwa [hcount, hleft, hticks], by rwa [hinterval, hticks]⟩

/-- The count moves one tick across; the tick that reaches TIMER_INTERVAL is the frame's last. -/
theorem InFrame.countTick {s : State} (h : InFrame s) (hmode : s.mode = .normal) :
    CadenceConsistent s.countTick.closeTick := by
  obtain ⟨left, total, interval⟩ := h
  rw [closeTick_normal (by rw [State.countTick_mode, hmode])]
  obtain ⟨hlast, hcount⟩ | ⟨hinside, hcount⟩ := countTick_cases s <;> rw [hcount]
  · exact ⟨by simp; omega, interval, by simp; omega, fun _ => .inl ⟨by simp; omega, rfl⟩,
      fun h => absurd hmode h⟩
  · exact ⟨by simp; omega, interval, by simp; omega, fun _ => .inr ⟨by simp; omega, by simp; omega⟩,
      fun h => absurd hmode h⟩

theorem InFrame.closeTick {s : State} {e : FatalError} (h : InFrame s) (hmode : s.mode = .fatal e) :
    CadenceConsistent s.closeTick := by
  obtain ⟨left, total, interval⟩ := h
  rw [closeTick_fatal hmode]
  exact ⟨by simp; omega, interval, by simp; omega, fun h => by simp [hmode] at h, fun _ => rfl⟩

/-- Settles O26: a step opens a frame or is in one, and its tick leaves the counters to the count. -/
theorem stepKeepsCadenceConsistent : Obligations.StepKeepsCadenceConsistent := by
  intro s t hcadence hstep
  have hframe := hcadence.openFrame (mode_normal_of_step hstep)
  obtain ⟨u, hu, ⟨hmode, rfl⟩ | ⟨e, hmode, rfl⟩⟩ := step_cases hstep
  · exact (hframe.of_tick hu).countTick hmode
  · exact (hframe.of_tick hu).closeTick hmode

end Sys2Proof.Machine

/-! ## Construction and its invariants (70_reset_and_hazards.md R270, R271) -/

namespace Sys2Proof.Machine

/-- round(clock_speed / 60) is 0 exactly below half a tick per frame. -/
theorem cadence_eq_zero {clockSpeed : Nat} : cadence clockSpeed = 0 ↔ clockSpeed < 30 := by
  unfold cadence
  omega

/-- Settles O19: the three outcomes of construction, told apart by the clock speed and the program's length. -/
theorem constructionFailsExactlyAsListed : Obligations.ConstructionFailsExactlyAsListed := by
  intro o clockSpeed program
  obtain ⟨hzero, hok⟩ | ⟨hticks, hlarge, hok⟩ | ⟨hticks, hfits, hok⟩ := construct_cases o clockSpeed program
  · have hslow := cadence_eq_zero.mp hzero
    exact ⟨fun _ => hok, fun hfast => by omega, fun hfast => by omega⟩
  · have hfast := mt cadence_eq_zero.mpr hticks
    exact ⟨fun hslow => absurd hslow hfast, fun _ _ => hok, fun _ hsmall => by omega⟩
  · have hfast := mt cadence_eq_zero.mpr hticks
    exact ⟨fun hslow => absurd hslow hfast, fun _ hlarge => by omega, fun _ _ => ⟨_, hok, rfl, rfl⟩⟩

/-- Settles O21: the construction is evaluated. -/
theorem resetIsTheDefaultConstruction : Obligations.ResetIsTheDefaultConstruction :=
  ⟨rfl, rfl, rfl, rfl, rfl⟩

/-- Memory is canonical by its stores, and the rest of a construction is at rest. -/
theorem Invariant.of_construct {o : Config.Options} {clockSpeed : Nat} {program : List Byte} {s : State}
    (hok : construct o clockSpeed program = .ok s) : Invariant s := by
  obtain ⟨-, hnoTicks⟩ | ⟨-, -, hlarge⟩ | ⟨hticks, hfits, hloaded⟩ := construct_cases o clockSpeed program
  · cases hnoTicks.symm.trans hok
  · cases hlarge.symm.trans hok
  · cases hloaded.symm.trans hok
    have hpos : 0 < Machine.cadence clockSpeed := Nat.pos_of_ne_zero hticks
    exact { memory := Memory.wf_writeBytes Memory.wf_nil hfits
            tone := ⟨rfl, rfl⟩
            cadence := ⟨hpos, rfl, hpos, fun _ => .inl ⟨rfl, rfl⟩, fun _ => rfl⟩
            pc := ⟨fun _ => show (0x200#16).toNat ≤ 0x10FE by decide, fun _ h => absurd h List.not_mem_nil⟩ }

/-- Settles O23: the reset state is a construction too (O21). -/
theorem constructedStatesMeetTheInvariant : Obligations.ConstructedStatesMeetTheInvariant := by
  obtain ⟨hreset, -⟩ := resetIsTheDefaultConstruction
  exact ⟨.of_construct hreset, fun _ _ _ _ => .of_construct⟩

end Sys2Proof.Machine

/-! ## Nested calls and their returns (41_control.md R131, R132) -/

namespace Sys2Proof.Machine

/-- What a CALL with room on the stack leaves, advanced over as in a tick (40_cycle.md R112). -/
def State.afterCall (s : State) (nnn : Addr) : State :=
  { s with stack := (s.pc + 2) :: s.stack, pc := addrOperand nnn }

theorem execCall_advancePc (nnn : Addr) {s : State} (h : s.options.stackLimit = none) :
    exec (.call nnn) s.advancePc = .next (s.afterCall nnn) := by
  obtain ⟨hfull, -⟩ | ⟨-, hcall⟩ := execCall_cases nnn s.advancePc
  · cases h.symm.trans hfull
  · exact hcall

@[simp] theorem andThen_next (r : Result) : Result.andThen r .next = r := by
  cases r with
  | next t => cases hmode : t.mode <;> simp only [Result.andThen, hmode]
  | fault e => rfl
  | refused e => rfl

/-- Where going on ends in a next state: the outcome gone on from raised no error, or its error is that state. -/
theorem andThen_cases {r : Result} {k : State → Result} {t : State} (h : Result.andThen r k = .next t) :
    (∃ u, r = .next u ∧ u.mode = .normal ∧ k u = .next t) ∨ (∃ e, r = .next t ∧ t.mode = .fatal e) := by
  cases r with
  | next u =>
    cases hmode : u.mode with
    | normal => exact .inl ⟨u, rfl, hmode, (andThen_normal k hmode).symm.trans h⟩
    | fatal e =>
      cases (andThen_fatal k hmode).symm.trans h
      exact .inr ⟨e, rfl, hmode⟩
  | fault e => cases h
  | refused e => cases h

/-- One more return is a RET at the PC that the returns before it left. -/
theorem retTimes_succ {n : Nat} {s t : State} (h : retTimes n s = .next t) (hmode : t.mode = .normal) :
    retTimes (n + 1) s = exec .ret t.advancePc := by
  induction n generalizing s with
  | zero =>
    cases h
    exact andThen_next _
  | succ n ih =>
    obtain ⟨u, hu, hu', hrest⟩ | ⟨e, -, hfatal⟩ := andThen_cases h
    · rw [retTimes, hu, andThen_normal _ hu', ih hrest]
    · cases hmode.symm.trans hfatal

/-- The calls leave one return address each on the stack, and as many returns undo them. -/
theorem callAll_retTimes (targets : List Addr) {s : State} (hmode : s.mode = .normal)
    (hlimit : s.options.stackLimit = none) :
    ∃ t, callAll targets s = .next t ∧ t.stack.length = s.stack.length + targets.length ∧
      retTimes targets.length t = .next (if targets = [] then s else s.advancePc) := by
  induction targets generalizing s with
  | nil => exact ⟨s, rfl, rfl, rfl⟩
  | cons nnn rest ih =>
    obtain ⟨t, hcalls, hlength, hreturns⟩ := ih (s := s.afterCall nnn) hmode hlimit
    refine ⟨t, ?_, ?_, ?_⟩
    · rw [callAll, execCall_advancePc nnn hlimit]
      exact (andThen_normal (t := s.afterCall nnn) _ hmode).trans hcalls
    · rw [hlength, State.afterCall, List.length_cons, List.length_cons]
      omega
    · rw [List.length_cons, if_neg (List.cons_ne_nil _ _)]
      rw [retTimes_succ hreturns (by split <;> exact hmode)]
      split <;> exact retPopsIntoPc.1 _ _ _ rfl

/-- RET on an empty stack, advanced over as in a tick, raises the underflow at the RET's own address. -/
theorem execRet_advancePc_underflow {s : State} (hempty : s.stack = []) :
    ∃ u, exec .ret s.advancePc = .next u ∧ EntersFatal s u (.stackUnderflow s.pc) s.pc := by
  obtain ⟨u, hu, hframe, hpc⟩ := retPopsIntoPc.2 s.advancePc hempty
  have haddr : s.advancePc.pc - 2 = s.pc := s.instrAddr_advancePc
  rw [haddr] at hframe hpc
  exact ⟨u, hu, hframe, hpc⟩

/-- Settles O43: the returns undo the calls, and where nothing was on the stack before them nothing is left. -/
theorem nestedCallsReturn : Obligations.NestedCallsReturn := by
  rintro s back targets hmode hlimit rfl
  obtain ⟨t, hcalls, hlength, hreturns⟩ := callAll_retTimes targets hmode hlimit
  refine ⟨t, hcalls, hlength, hreturns, fun hempty => ?_⟩
  rw [retTimes_succ hreturns (by split <;> exact hmode)]
  exact execRet_advancePc_underflow (by split <;> exact hempty)

end Sys2Proof.Machine

/-! ## Stores and what reads them back: the fetch, the load, and a second drawing -/

namespace Sys2Proof.Machine

/-- Settles O54: the stored memory reads as `byteAfterBcd` or `byteAfterDump` everywhere, the fetch's bytes included. -/
theorem storedBytesAreFetched : Obligations.StoredBytesAreFetched := by
  intro s x hcanonical hpc
  refine ⟨fun hin => ?_, fun hin => ?_⟩
  · obtain ⟨-, hexec⟩ | ⟨hout, -⟩ := execLdB_cases x s
    · refine ⟨_, hexec, rfl, ?_⟩
      rw [← read_writeBytes_bcd x hcanonical hin, ← read_writeBytes_bcd x hcanonical hin]
      exact fetch_in hpc
    · omega
  · obtain ⟨-, hexec⟩ | ⟨hout, -⟩ := execLdMemVx_cases x s
    · refine ⟨_, hexec, by rw [State.advanceI_pc], ?_⟩
      rw [← read_writeBytes_dump x hcanonical hin, ← read_writeBytes_dump x hcanonical hin, advanceI_eq]
      exact fetch_in hpc
    · omega

/-- Settles O55: the dump puts each register where the load reads it (O52, O53). -/
theorem loadAfterDumpRestoresRegisters : Obligations.LoadAfterDumpRestoresRegisters := by
  intro s t u w x hcanonical hin hdump hmem hi hload r hr
  obtain ⟨t', ht', -, hstored, -⟩ := (dumpStoresRegisters s x hcanonical).1 hin
  cases ht'.symm.trans hdump
  have haddr : u.indexAddr = s.indexAddr := congrArg BitVec.toNat hi
  obtain ⟨w', hw', -, hloaded, -⟩ := (loadReadsRegisters u x).1 (by rwa [haddr])
  cases hw'.symm.trans hload
  rw [hloaded r hr, hmem, haddr, hstored r hr]

/-- Settles O58: both draws toggle the cells under the same sprite bits (O57), so the second finds on what the first
turned on. -/
theorem drawingTwiceRestoresTheDisplay : Obligations.DrawingTwiceRestoresTheDisplay := by
  intro s t u x y n hin hfirst hx hy hsecond
  obtain ⟨t', ht', hcell, -, -, -, -, hframe, -⟩ := (drawTogglesExactlyTheSpriteBits s x y n).1 hin
  cases ht'.symm.trans hfirst
  have hi : t.i = s.i := by rw [hframe]
  have hmem : t.mem = s.mem := by rw [hframe]
  obtain ⟨u', hu', hcell', -, hflag, -⟩ := (drawTogglesExactlyTheSpriteBits t x y n).1 (by rwa [hi])
  cases hu'.symm.trans hsecond
  have hsprite (px py : Nat) : spriteBit t ((t.getV x).toNat % 64) ((t.getV y).toNat % 32) n px py =
      spriteBit s ((s.getV x).toNat % 64) ((s.getV y).toNat % 32) n px py := by
    rw [hx, hy, spriteBit, spriteBit, hi, hmem]
  simp only [hsprite] at hcell' hflag
  refine ⟨display_ext fun px py hpx hpy => ?_, fun hoff => ?_⟩
  · rw [hcell' px py hpx hpy, hcell px py hpx hpy, Bool.xor_assoc, Bool.xor_self, Bool.xor_false]
  · rw [hflag]
    refine exists_congr fun px => exists_congr fun py => and_congr_right fun hpx => and_congr_right fun hpy => ?_
    -- a covered cell was off, so the first draw turned it on
    refine and_iff_right_of_imp fun hbit => ?_
    rw [hcell px py hpx hpy, hoff px py hpx hpy hbit, hbit]
    rfl

end Sys2Proof.Machine

/-! ## The frame loop's own fields pass through a tick unread (40_cycle.md R114) -/

namespace Sys2Proof.Machine

/-- `s` with the fields that only the frame loop touches changed. -/
def State.mapLoop (redraw : Bool → Bool) (count left : Nat → Nat) (s : State) : State :=
  { s with redraw := redraw s.redraw, tickCount := count s.tickCount, frameLeft := left s.frameLeft }

section MapLoop

variable {redraw : Bool → Bool} {count left : Nat → Nat}

/-- The meaning `f` does the same whatever the frame loop's fields hold, and leaves them. -/
def PassesLoop (redraw : Bool → Bool) (count left : Nat → Nat) (f : State → Result) (s : State) : Prop :=
  ∃ t, f s = .next t ∧ f (s.mapLoop redraw count left) = .next (t.mapLoop redraw count left)

theorem skipIf_mapLoop (s : State) (c : Bool) :
    (s.mapLoop redraw count left).skipIf c = (s.skipIf c).mapLoop redraw count left := by
  rw [skipIf_eq, skipIf_eq]
  rfl

theorem advanceI_mapLoop (s : State) (x : Reg) :
    (s.mapLoop redraw count left).advanceI x = (s.advanceI x).mapLoop redraw count left := by
  rw [advanceI_eq, advanceI_eq]
  rfl

theorem loadV_mapLoop (s : State) (k : Nat) (bytes : List Byte) :
    (s.mapLoop redraw count left).loadV k bytes = (s.loadV k bytes).mapLoop redraw count left := by
  induction bytes generalizing s k with
  | nil => rfl
  | cons u us ih =>
    unfold State.loadV
    split
    · next h => exact ih (s.setV ⟨k, h⟩ u) (k + 1)
    · rfl

/-- A checked access whose value does not depend on the frame loop's fields. -/
theorem attempt_passesLoop {α : Type} (s : State) (r : Except FatalError α) {k k' : α → State}
    (hk : ∀ u, k' u = (k u).mapLoop redraw count left) :
    ∃ t, s.attempt r k = .next t ∧
      (s.mapLoop redraw count left).attempt r k' = .next (t.mapLoop redraw count left) := by
  cases r with
  | ok u => exact ⟨_, rfl, congrArg Host.Outcome.next (hk u)⟩
  | error e => exact ⟨_, rfl, rfl⟩

/-- A checked store, whose value is the state it stores in. -/
theorem attempt_memWrite_passesLoop (s : State) (a : Nat) (bytes : List Byte) {k : State → State}
    (hk : ∀ t, k (t.mapLoop redraw count left) = (k t).mapLoop redraw count left) :
    PassesLoop redraw count left (fun t => t.attempt (t.memWrite a bytes) k) s := by
  unfold PassesLoop
  beta_reduce
  by_cases hin : bytes.length = 0 ∨ a + bytes.length ≤ 4096
  · rw [memWrite_in hin, memWrite_in hin]
    exact ⟨_, rfl, congrArg Host.Outcome.next (hk { s with mem := s.mem.writeBytes a bytes })⟩
  · rw [memWrite_out (by omega) (by omega), memWrite_out (by omega) (by omega)]
    exact ⟨_, rfl, rfl⟩

theorem execRet_passesLoop (s : State) : PassesLoop redraw count left execRet s := by
  unfold PassesLoop execRet
  rw [show (s.mapLoop redraw count left).stack = s.stack from rfl]
  cases s.stack <;> exact ⟨_, rfl, rfl⟩

theorem execLdVxK_passesLoop (x : Reg) (s : State) : PassesLoop redraw count left (execLdVxK x) s := by
  unfold PassesLoop execLdVxK
  rw [show (s.mapLoop redraw count left).keys = s.keys from rfl]
  split <;> exact ⟨_, rfl, rfl⟩

theorem execAddI_passesLoop (x : Reg) (s : State) : PassesLoop redraw count left (execAddI x) s := by
  unfold PassesLoop execAddI
  rw [show (s.mapLoop redraw count left).options = s.options from rfl]
  cases s.options.indexWrap with
  | wrap16 => exact ⟨_, rfl, rfl⟩
  | fault =>
    by_cases h : 0xFFFF < s.indexAddr + (s.getV x).toNat
    · exact ⟨_, if_pos h, if_pos h⟩
    · exact ⟨_, if_neg h, if_neg h⟩

/-- No instruction reads the frame loop's fields: its condition, where it has one, is the same on both sides. -/
theorem exec_passesLoop (i : Instr) (s : State) : PassesLoop redraw count left (exec i) s := by
  cases i
  case seByte | sneByte | seReg | sneReg | skp | sknp =>
    exact ⟨_, rfl, congrArg Host.Outcome.next (skipIf_mapLoop s _)⟩
  case call nnn =>
    by_cases h : s.stackFull = true
    · exact ⟨_, if_pos h, if_pos h⟩
    · exact ⟨_, if_neg h, if_neg h⟩
  case ret => exact execRet_passesLoop s
  case addI x => exact execAddI_passesLoop x s
  case ldVxK x => exact execLdVxK_passesLoop x s
  case ldB x => exact attempt_memWrite_passesLoop s _ _ fun _ => rfl
  case ldMemVx x =>
    exact attempt_memWrite_passesLoop s _ _ fun t => advanceI_mapLoop t x
  case ldVxMem x =>
    exact attempt_passesLoop s (s.memRead s.indexAddr (x.val + 1)) fun bytes => by
      rw [loadV_mapLoop, advanceI_mapLoop]
  case drw x y n => exact attempt_passesLoop s (s.memRead s.indexAddr n) fun _ => rfl
  -- the remaining meanings are one update each
  all_goals exact ⟨_, rfl, rfl⟩

theorem runInstruction_passesLoop (s : State) : PassesLoop redraw count left runInstruction s := by
  unfold PassesLoop runInstruction
  rw [show (s.mapLoop redraw count left).fetch = s.fetch from rfl]
  cases s.fetch with
  | error e => exact ⟨_, rfl, rfl⟩
  | ok w =>
    cases hd : decode w with
    | error e =>
      simp only [hd]
      exact ⟨_, rfl, rfl⟩
    | ok i =>
      simp only [hd]
      exact exec_passesLoop i s.advancePc

theorem tick_passesLoop {s : State} (h : s.mode = .normal) : PassesLoop redraw count left tick s := by
  unfold PassesLoop
  rw [tick_normal h, tick_normal (s := s.mapLoop redraw count left) h]
  exact runInstruction_passesLoop s.clearRequest

theorem ticks_passesLoop (n : Nat) {s : State} (h : s.mode = .normal) : PassesLoop redraw count left (ticks n) s := by
  induction n generalizing s with
  | zero => exact ⟨s, rfl, rfl⟩
  | succ n ih =>
    obtain ⟨t, ht, ht'⟩ := tick_passesLoop h
    unfold PassesLoop
    rw [ticks, ticks, ht, ht']
    cases hmode : t.mode with
    | normal =>
      rw [andThen_normal _ hmode, andThen_normal (t := t.mapLoop redraw count left) _ hmode]
      exact ih hmode
    | fatal e =>
      rw [andThen_fatal _ hmode, andThen_fatal (t := t.mapLoop redraw count left) _ hmode]
      exact ⟨t, rfl, rfl⟩

end MapLoop

end Sys2Proof.Machine

/-! ## The frame loop: steps against run_frame, and the complete frame (40_cycle.md R118, R119) -/

namespace Sys2Proof.Machine

/-! ### One step against its tick -/

/-- Settles O15: the tick in the open frame is the tick itself but for the frame loop's fields, and the two cases of the
count are the obligation's own. -/
theorem stepCountsTicksAndUpdatesTimers : Obligations.StepCountsTicksAndUpdatesTimers := by
  intro s t hstep hmode
  have hs := mode_normal_of_step hstep
  obtain ⟨w, hw, ⟨hnormal, rfl⟩ | ⟨e, hfatal, rfl⟩⟩ := step_cases hstep
  swap
  · cases hmode.symm.trans hfatal
  obtain ⟨u, hu, hopen⟩ := tick_passesLoop (redraw := fun b => if s.frameLeft = 0 then false else b) (count := id)
    (left := fun n => if s.frameLeft = 0 then s.ticksPerFrame else n) hs
  obtain ⟨hcount, hredraw, -, -, hinterval, -, hleft⟩ := tick_keeps hu
  rw [openFrame_eq] at hw
  cases hopen.symm.trans hw
  refine ⟨u, hu, hnormal, ?_⟩
  rw [closeTick_normal (by rw [State.countTick_mode, hnormal])]
  have hredraw' : (if s.frameLeft = 0 then false else u.redraw) = (if s.frameLeft = 0 then false else s.redraw) := by
    rw [hredraw]
  have hleft' : (if s.frameLeft = 0 then s.ticksPerFrame else u.frameLeft) =
      (if s.frameLeft = 0 then s.ticksPerFrame else s.frameLeft) := by
    rw [hleft]
  rw [← hredraw', ← hleft', ← hcount, ← hinterval]
  obtain ⟨hlast, heq⟩ | ⟨hinside, heq⟩ := countTick_cases (u.mapLoop _ id _) <;> rw [heq]
  · rw [if_pos (show u.tickCount + 1 = u.timerInterval from hlast)]
    exact ⟨rfl, rfl, rfl, rfl, rfl, rfl, rfl, congrArg _ (toneTransition_countDown u.st)⟩
  · rw [if_neg (show u.tickCount + 1 ≠ u.timerInterval from hinside)]
    exact ⟨rfl, rfl, rfl, rfl, rfl, rfl, rfl, rfl⟩

/-! ### The frame loop, one pass at a time -/

/-- Everything one pass of the loop can do: its tick counted, or its tick's error. -/
theorem frameTick_cases {s t : State} (h : frameTick s = .next t) : ∃ u, tick s = .next u ∧
    ((u.mode = .normal ∧ t = u.countTick) ∨ (∃ e, u.mode = .fatal e ∧ t = u)) := by
  obtain ⟨u, hu, hmode, hcount⟩ | ⟨e, hu, hmode⟩ := andThen_cases h
  · cases hcount
    exact ⟨u, hu, .inl ⟨hmode, rfl⟩⟩
  · exact ⟨t, hu, .inr ⟨e, hmode, rfl⟩⟩

theorem exists_frameTick {s : State} (h : s.mode = .normal) : ∃ t, frameTick s = .next t := by
  obtain ⟨u, hu⟩ := exists_tick h
  rw [frameTick, hu]
  cases hmode : u.mode with
  | normal => exact ⟨_, andThen_normal _ hmode⟩
  | fatal e => exact ⟨_, andThen_fatal _ hmode⟩

/-- From mode normal the loop has an outcome, which its ticks and counts decide. -/
theorem frameLoop_keeps {P : State → Prop} (htick : ∀ {s t}, P s → tick s = .next t → P t)
    (hcount : ∀ {s}, P s → P s.countTick) (n : Nat) {s : State} (hmode : s.mode = .normal) (hs : P s) :
    ∃ t, frameLoop n s = .next t ∧ P t := by
  induction n generalizing s with
  | zero => exact ⟨s, rfl, hs⟩
  | succ n ih =>
    obtain ⟨u, hu⟩ := exists_frameTick hmode
    have hkept : P u := by
      obtain ⟨v, hv, ⟨-, rfl⟩ | ⟨e, -, rfl⟩⟩ := frameTick_cases hu
      · exact hcount (htick hs hv)
      · exact htick hs hv
    rw [frameLoop, hu]
    cases hmode' : u.mode with
    | normal =>
      rw [andThen_normal _ hmode']
      exact ih hmode' hkept
    | fatal e => exact ⟨u, andThen_fatal _ hmode', hkept⟩

theorem runFrame_normal {s : State} (h : s.mode = .normal) :
    runFrame s = frameLoop s.ticksPerFrame { s with redraw := false } := by
  simp only [runFrame, h]

/-- The components that a whole frame leaves: the keys, what construction fixed, and the step's own counter. -/
def SameFrame (s t : State) : Prop :=
  t.keys = s.keys ∧ t.frameLeft = s.frameLeft ∧ t.ticksPerFrame = s.ticksPerFrame ∧
    t.timerInterval = s.timerInterval ∧ t.options = s.options

theorem SameFrame.of_tick {s t u : State} (h : SameFrame s t) (htick : tick t = .next u) : SameFrame s u := by
  obtain ⟨-, -, hkeys, hticks, hinterval, hoptions, hleft⟩ := tick_keeps htick
  rwa [SameFrame, hkeys, hticks, hinterval, hoptions, hleft]

theorem SameFrame.countTick {s t : State} (h : SameFrame s t) : SameFrame s t.countTick := by
  rwa [SameFrame, State.countTick_keys, State.countTick_frameLeft, State.countTick_ticksPerFrame,
    State.countTick_timerInterval, State.countTick_options]

/-- run_frame has an outcome in mode normal, whatever the ticks do. -/
theorem exists_runFrame {s : State} (h : s.mode = .normal) : ∃ t, runFrame s = .next t ∧ SameFrame s t := by
  rw [runFrame_normal h]
  exact frameLoop_keeps SameFrame.of_tick SameFrame.countTick _ (s := { s with redraw := false }) h
    ⟨rfl, rfl, rfl, rfl, rfl⟩

/-! ### run_frame as steps -/

theorem countTick_withLeft (s : State) (m : Nat) :
    { s with frameLeft := m }.countTick = { s.countTick with frameLeft := m } := by
  simp only [State.countTick]
  split <;> rfl

/-- Inside a frame a step is one pass of the loop, with its own counter beside it. -/
theorem step_of_frameTick {s t : State} (m : Nat) (h : frameTick s = .next t) :
    step { s with frameLeft := m + 1 } = .next { t with frameLeft := if t.mode = .normal then m else 0 } := by
  obtain ⟨u, hu, hcases⟩ := frameTick_cases h
  have hmode := mode_normal_of_tick hu
  obtain ⟨v, hv, hv'⟩ := tick_passesLoop (redraw := id) (count := id) (left := fun _ => m + 1) hmode
  cases hv.symm.trans hu
  rw [step_of_tick (s := { s with frameLeft := m + 1 }) hmode hv']
  obtain ⟨hnormal, rfl⟩ | ⟨e, hfatal, rfl⟩ := hcases
  · have hnormal' : u.countTick.mode = .normal := by rw [State.countTick_mode, hnormal]
    rw [if_pos (show (u.mapLoop id id fun _ => m + 1).mode = .normal from hnormal), if_pos hnormal']
    change Host.Outcome.next { u with frameLeft := m + 1 }.countTick.closeTick = _
    rw [countTick_withLeft]
    exact congrArg Host.Outcome.next (closeTick_normal (s := { u.countTick with frameLeft := m + 1 }) hnormal')
  · have hnot : t.mode ≠ .normal := by rw [hfatal]; nofun
    rw [if_neg (show (t.mapLoop id id fun _ => m + 1).mode ≠ .normal from hnot), if_neg hnot]
    exact congrArg _ (closeTick_fatal hfatal)

theorem run_succ {k : Nat} {s t : State} (h : step s = .next t) :
    Host.Core.run core (k + 1) s = Host.Core.run core k t := by
  have hcore : core.step s = .next t := h
  simp only [Host.Core.run, hcore]

/-- The loop's `n` passes are `n` steps inside the frame, or the steps up to the error. -/
theorem run_of_frameLoop (n : Nat) {s t : State} (hmode : s.mode = .normal) (h : frameLoop n s = .next t) :
    (t.mode = .normal → Host.Core.run core n { s with frameLeft := n } = .next { t with frameLeft := 0 }) ∧
    (∀ e, t.mode = .fatal e →
      ∃ k, k < n ∧ Host.Core.run core (k + 1) { s with frameLeft := n } = .next { t with frameLeft := 0 }) := by
  induction n generalizing s with
  | zero =>
    cases h
    exact ⟨fun _ => rfl, fun e hfatal => by cases hmode.symm.trans hfatal⟩
  | succ n ih =>
    obtain ⟨u, hu, hmode', hrest⟩ | ⟨e, hu, hfatal⟩ := andThen_cases h
    · have hstep := step_of_frameTick n hu
      rw [if_pos hmode'] at hstep
      obtain ⟨hcomplete, herror⟩ := ih hmode' hrest
      refine ⟨fun hnormal => (run_succ hstep).trans (hcomplete hnormal), fun e hfatal => ?_⟩
      obtain ⟨k, hk, hrun⟩ := herror e hfatal
      exact ⟨k + 1, by omega, (run_succ hstep).trans hrun⟩
    · have hnot : t.mode ≠ .normal := by rw [hfatal]; nofun
      have hstep := step_of_frameTick n hu
      rw [if_neg hnot] at hstep
      exact ⟨fun hnormal => absurd hnormal hnot, fun _ _ => ⟨0, by omega, run_succ hstep⟩⟩

/-- Opening a frame first changes nothing for the step that would open it. -/
theorem step_openFrame {s : State} (hbetween : s.frameLeft = 0) (hpos : 0 < s.ticksPerFrame) :
    step s.openFrame = step s := by
  have hopen : s.openFrame.openFrame = s.openFrame := by
    rw [openFrame_eq s, if_pos hbetween, if_pos hbetween]
    exact if_neg hpos.ne'
  simp only [step, stepFrame, State.openFrame_mode, hopen]

theorem run_openFrame {s : State} (k : Nat) (hbetween : s.frameLeft = 0) (hpos : 0 < s.ticksPerFrame) :
    Host.Core.run core (k + 1) s.openFrame = Host.Core.run core (k + 1) s := by
  have hcore : core.step s.openFrame = core.step s := step_openFrame hbetween hpos
  simp only [Host.Core.run, hcore]

/-- Settles O17: a run of steps from between frames is one from the frame it opens, where it is the loop's passes. -/
theorem runFrameIsTicksPerFrameSteps : Obligations.RunFrameIsTicksPerFrameSteps := by
  intro s hmode hbetween hpos
  have hrun : ∀ t, runFrame s = .next t →
      (t.mode = .normal → Host.Core.run core s.ticksPerFrame s = .next t) ∧
      (∀ e, t.mode = .fatal e → ∃ k, k < s.ticksPerFrame ∧ Host.Core.run core (k + 1) s = .next t) := by
    intro t ht
    obtain ⟨t', ht', -, hleft, -⟩ := exists_runFrame hmode
    cases ht'.symm.trans ht
    have hclosed : { t with frameLeft := 0 } = t := by rw [← hbetween, ← hleft]
    have hopen : { { s with redraw := false } with frameLeft := s.ticksPerFrame } = s.openFrame :=
      (if_pos hbetween).symm
    rw [runFrame_normal hmode] at ht
    obtain ⟨hcomplete, herror⟩ := run_of_frameLoop s.ticksPerFrame (s := { s with redraw := false }) hmode ht
    rw [hclosed, hopen] at hcomplete herror
    obtain ⟨n, hn⟩ := Nat.exists_eq_succ_of_ne_zero hpos.ne'
    simp only [hn, run_openFrame _ hbetween hpos] at hcomplete herror ⊢
    exact ⟨hcomplete, herror⟩
  exact ⟨fun t ht => (hrun t ht).1, fun t e ht => (hrun t ht).2 e⟩

/-! ### The complete frame -/

/-- With the whole interval still to run, the last of the loop's ticks, and only that one, updates the timers. -/
theorem frameLoop_updates_once {n : Nat} {s t : State} (hpos : 0 < n) (hinterval : s.tickCount + n = s.timerInterval)
    (h : frameLoop n s = .next t) (ht : t.mode = .normal) :
    t.tickCount = 0 ∧ ∃ u, ticks n s = .next u ∧ t = { u.timerUpdate with tickCount := 0, redraw := t.redraw } := by
  induction n generalizing s with
  | zero => exact absurd hpos (lt_irrefl 0)
  | succ n ih =>
    obtain ⟨u, hu, hmode, hrest⟩ | ⟨e, -, hfatal⟩ := andThen_cases h
    swap
    · cases ht.symm.trans hfatal
    obtain ⟨v, hv, ⟨hnormal, rfl⟩ | ⟨e, hfatal, rfl⟩⟩ := frameTick_cases hu
    swap
    · cases hmode.symm.trans hfatal
    obtain ⟨hcount, -, -, -, htimer, -⟩ := tick_keeps hv
    obtain ⟨hlast, heq⟩ | ⟨hinside, heq⟩ := countTick_cases v <;> rw [heq] at hrest
    · obtain rfl : n = 0 := by omega
      cases hrest
      exact ⟨rfl, v, by rw [ticks, hv]; exact andThen_normal _ hnormal, rfl⟩
    · obtain ⟨hzero, w', hw', hupdate⟩ := ih (by omega) (by simp only; omega) hrest
      obtain ⟨w, hw, hloop⟩ := ticks_passesLoop (redraw := fun _ => v.redraw || v.redrawRequest)
        (count := fun _ => v.tickCount + 1) (left := id) n hnormal
      cases hloop.symm.trans hw'
      exact ⟨hzero, w, by rw [ticks, hv, andThen_normal _ hnormal, hw], hupdate⟩

theorem mode_normal_of_runFrame {s t : State} (h : runFrame s = .next t) : s.mode = .normal := by
  cases hmode : s.mode with
  | normal => rfl
  | fatal e => cases (runFrame_fatal hmode).symm.trans h

/-- Settles O18: between frames the whole interval is still to run. -/
theorem completeFrameUpdatesTimersOnce : Obligations.CompleteFrameUpdatesTimersOnce := by
  intro s t hcadence hbetween hrun hnormal
  obtain ⟨hpos, hinterval, -, hframe, -⟩ := hcadence
  have hmode := mode_normal_of_runFrame hrun
  have hcount : s.tickCount = 0 := by
    obtain ⟨-, hcount⟩ | ⟨hleft, -⟩ := hframe hmode
    · exact hcount
    · omega
  rw [runFrame_normal hmode] at hrun
  exact frameLoop_updates_once hpos (by simp only; omega) hrun hnormal

/-! ### The host's calls -/

theorem mode_normal_of_hostCall {c : HostCall} {s t : State} (h : hostCall c s = .next t) : s.mode = .normal := by
  cases hmode : s.mode with
  | normal => rfl
  | fatal e => cases (hostCall_fatal hmode c).symm.trans h

/-- During a frame every call is refused (93_implementation_defined.md U8). -/
theorem hostCall_refused {s : State} (hmode : s.mode = .normal) (hinside : s.frameLeft ≠ 0) (c : HostCall) :
    hostCall c s = .refused .hostCallDuringFrame := by
  simp only [hostCall, hmode, hinside, ne_eq, not_false_eq_true, if_true]

/-- Between frames each call is its operation (R120, R123). -/
theorem hostCall_between {s : State} (hmode : s.mode = .normal) (hbetween : s.frameLeft = 0) :
    (∀ keys, hostCall (.setKeys keys) s = .next { s with keys := keys }) ∧
    hostCall .runFrame s = runFrame s ∧ hostCall .tick s = tick s := by
  simp [hostCall, hmode, hbetween, State.setKeys]

/-- Settles O22: between frames the call is its update, and during a frame no call is taken. -/
theorem setKeysReplacesKeysBetweenFrames : Obligations.SetKeysReplacesKeysBetweenFrames := by
  intro s keys hmode
  refine ⟨fun hbetween => ?_, fun hinside => hostCall_refused hmode hinside (.setKeys keys)⟩
  obtain ⟨hkeys, -⟩ := hostCall_between hmode hbetween
  exact hkeys keys

/-- Settles O59: a frame keeps the components of `SameFrame`, a tick those of R114. -/
theorem hostCallsActBetweenFramesOnly : Obligations.HostCallsActBetweenFramesOnly := by
  intro s hmode
  refine ⟨hostCall_refused hmode, fun hbetween => ?_⟩
  obtain ⟨hkeys, hframe, htick⟩ := hostCall_between hmode hbetween
  obtain ⟨t, ht, hkeys', hleft, hticks, hinterval, hoptions⟩ := exists_runFrame hmode
  obtain ⟨u, hu⟩ := exists_tick hmode
  obtain ⟨hcount, hredraw, hkeysTick, hticksTick, hintervalTick, hoptionsTick, hleftTick⟩ := tick_keeps hu
  exact ⟨hkeys,
    ⟨t, hframe.trans ht, ht, hkeys', hleft.trans hbetween, hticks, hinterval, hoptions⟩,
    ⟨u, htick.trans hu, hu, hkeysTick, hcount, hredraw, hleftTick.trans hbetween, hticksTick, hintervalTick,
      hoptionsTick⟩⟩

/-! ### The invariants of every reachable state -/

theorem Invariant.of_step {s t : State} (h : Invariant s) (hstep : step s = .next t) : Invariant t where
  memory := stepKeepsMemoryCanonical s t h.memory hstep
  tone := stepKeepsToneConsistent s t h.tone hstep
  cadence := stepKeepsCadenceConsistent s t h.cadence hstep
  pc := stepKeepsPcInRange s t h.pc hstep

theorem Invariant.of_run {k : Nat} {s t : State} (h : Invariant s) (hrun : Host.Core.run core k s = .next t) :
    Invariant t := by
  induction k generalizing s with
  | zero =>
    cases hrun
    exact h
  | succ k ih =>
    simp only [Host.Core.run] at hrun
    split at hrun
    · next u hu => exact ih (h.of_step hu) hrun
    · cases hrun
    · cases hrun

/-- A tick between frames counts nothing, so the counters stay at rest. -/
theorem CadenceConsistent.of_tick {s t : State} (h : CadenceConsistent s) (hbetween : s.frameLeft = 0)
    (htick : tick s = .next t) : CadenceConsistent t := by
  have hmode := mode_normal_of_tick htick
  obtain ⟨hcount, -, -, hticks, hinterval, -, hleft⟩ := tick_keeps htick
  obtain ⟨hpos, hequal, hbelow, hframe, -⟩ := h
  rw [CadenceConsistent, hcount, hticks, hinterval, hleft]
  exact ⟨hpos, hequal, hbelow, fun _ => hframe hmode, fun _ => hbetween⟩

theorem Invariant.of_tick {s t : State} (h : Invariant s) (hbetween : s.frameLeft = 0) (htick : tick s = .next t) :
    Invariant t where
  memory := memoryCanonical_of_tick h.memory htick
  tone := toneConsistent_of_tick h.tone htick
  cadence := h.cadence.of_tick hbetween htick
  pc := pcInRange_of_tick h.pc htick

/-- run_frame keeps the invariants because it is a run of steps (O17). -/
theorem Invariant.of_runFrame {s t : State} (h : Invariant s) (hmode : s.mode = .normal) (hbetween : s.frameLeft = 0)
    (hframe : runFrame s = .next t) : Invariant t := by
  obtain ⟨hpos, -⟩ := h.cadence
  obtain ⟨hcomplete, herror⟩ := runFrameIsTicksPerFrameSteps s hmode hbetween hpos
  cases ht : t.mode with
  | normal => exact h.of_run (hcomplete t hframe ht)
  | fatal e =>
    obtain ⟨k, -, hrun⟩ := herror t e hframe ht
    exact h.of_run hrun

theorem Invariant.of_hostCall {c : HostCall} {s t : State} (h : Invariant s) (hcall : hostCall c s = .next t) :
    Invariant t := by
  have hmode := mode_normal_of_hostCall hcall
  by_cases hbetween : s.frameLeft = 0
  swap
  · cases (hostCall_refused hmode hbetween c).symm.trans hcall
  obtain ⟨hkeys, hframe, htick⟩ := hostCall_between hmode hbetween
  cases c with
  | setKeys keys =>
    cases (hkeys keys).symm.trans hcall
    exact ⟨h.memory, h.tone, h.cadence, h.pc⟩
  | runFrame => exact h.of_runFrame hmode hbetween (hframe ▸ hcall)
  | tick => exact h.of_tick hbetween (htick ▸ hcall)

/-- Settles O28, by induction on how the state is reached. -/
theorem reachableStatesMeetTheInvariant : Obligations.ReachableStatesMeetTheInvariant := by
  intro s hreachable
  induction hreachable with
  | constructed hok => exact .of_construct hok
  | called _ hcall ih => exact ih.of_hostCall hcall
  | stepped _ hstep ih => exact ih.of_step hstep

end Sys2Proof.Machine
